-- ==== Sys2Proof/Word.lean ====
section
/-! DEFINITION. The two word types of the block: the byte of the bus and the 32-bit chip register value
(spec 00_scope R9, 10_state R40). -/

namespace Sys2Proof

/-- A byte: 8 bits, an unsigned value 0..255 (R9). -/
abbrev Byte := BitVec 8

/-- A chip register value: `REG_WIDTH` = 32 bits (R6, R40). -/
abbrev Word := BitVec 32

end Sys2Proof
end

