-- ==== Sys2Proof/Machine/Bytes.lean ====
section
/-! DEFINITION. Byte sequences and little-endian conversion (spec 00_scope R10, R11; 20_memory R64) and the
fields of a register value (10_state R42, R43). -/

namespace Sys2Proof

/-- `rep(b, n)` (R10). -/
def rep (b : Byte) (n : Nat) : List Byte := List.replicate n b

/-- `opt(u)`: nothing when absent, the bytes when supplied (R10). -/
def opt (u : Option (List Byte)) : List Byte := u.getD []

/-- `le32(v)`: the byte of bits 7:0 first (R11). -/
def le32 (v : Word) : List Byte :=
  [v.extractLsb' 0 8, v.extractLsb' 8 8, v.extractLsb' 16 8, v.extractLsb' 24 8]

/-- `de32(s)`: `s[0] + 256*s[1] + 65536*s[2] + 16777216*s[3]` (R11). -/
def de32 (s : List Byte) : Word :=
  s.getD 3 0 ++ s.getD 2 0 ++ s.getD 1 0 ++ s.getD 0 0

/-- `le16(v)` (R11). Offered to the host; no operation of the block uses it on a register (R64, D30). -/
def le16 (v : BitVec 16) : List Byte := [v.extractLsb' 0 8, v.extractLsb' 8 8]

/-- `de16(s)` (R11). -/
def de16 (s : List Byte) : BitVec 16 := s.getD 1 0 ++ s.getD 0 0

/-- Ones at the `n` bits from bit `lo` up, zeros elsewhere. -/
def fieldMask (lo n : Nat) : Word := BitVec.ofNat 32 (2 ^ n - 1) <<< lo

/-- The value of the `n` bits of `v` from bit `lo` up: `v[lo+n-1 : lo]`. -/
def fieldOf (lo n : Nat) (v : Word) : Word := (v >>> lo) &&& BitVec.ofNat 32 (2 ^ n - 1)

/-- The three bits of `v` from bit `lo` up: `v[lo+2 : lo]`. -/
def field3 (lo : Nat) (v : Word) : BitVec 3 := v.extractLsb' lo 3

/-- `v` with the three bits from bit `lo` up replaced by `f`. -/
def setField3 (lo : Nat) (f : BitVec 3) (v : Word) : Word :=
  (v &&& ~~~ (fieldMask lo 3)) ||| ((f.setWidth 32) <<< lo)

/-- The unsigned value of the low `n` bits of `v`: `v[n-1 : 0]`. -/
def lowBits (n : Nat) (v : Word) : Nat := v.toNat % 2 ^ n

end Sys2Proof
end

