-- ==== Sys2Proof/Config.lean ====
section
/-! DEFINITION. The implementation parameters of spec 00_scope R6 and R7 as one configuration record with
the spec's defaults, the constraints of R8 on them, the event vocabulary of the trace (R13), and the free
values of the bus oracle (20_memory R71). -/

namespace Sys2Proof

/-- The ten chip command opcodes `OPC_*` (R7, R103). The defaults are general knowledge of the PN5180
family, not the source's (PRESUMED, log 14). -/
structure Opcodes where
  writeRegister : Byte := 0x00
  writeRegisterOrMask : Byte := 0x01
  writeRegisterAndMask : Byte := 0x02
  readRegister : Byte := 0x04
  readEeprom : Byte := 0x07
  sendData : Byte := 0x09
  readData : Byte := 0x0A
  loadRfConfig : Byte := 0x11
  rfOn : Byte := 0x16
  rfOff : Byte := 0x17
  deriving DecidableEq, Repr

/-- The ten opcodes as a list, in the order of R103. -/
def Opcodes.all (o : Opcodes) : List Byte :=
  [o.writeRegister, o.writeRegisterOrMask, o.writeRegisterAndMask, o.readRegister, o.readEeprom,
   o.sendData, o.readData, o.loadRfConfig, o.rfOn, o.rfOff]

/-- The ISO-15693 command codes `ISO_*` (R7, R115); general knowledge (PRESUMED, log 14).
`inventory` and `writeMultipleBlocks` are the codes of two stubs and are used by no operation. -/
structure IsoCodes where
  inventory : Byte := 0x01
  readSingleBlock : Byte := 0x20
  writeSingleBlock : Byte := 0x21
  writeMultipleBlocks : Byte := 0x24
  select : Byte := 0x25
  resetToReady : Byte := 0x26
  writeAfi : Byte := 0x27
  lockAfi : Byte := 0x28
  writeDsfid : Byte := 0x29
  lockDsfid : Byte := 0x2A
  getSystemInformation : Byte := 0x2B
  getMultipleBlockSecurityStatus : Byte := 0x2C
  deriving DecidableEq, Repr

/-- The ten implemented command codes (R115). -/
def IsoCodes.implemented (i : IsoCodes) : List Byte :=
  [i.readSingleBlock, i.writeSingleBlock, i.select, i.resetToReady, i.writeAfi, i.lockAfi,
   i.writeDsfid, i.lockDsfid, i.getSystemInformation, i.getMultipleBlockSecurityStatus]

/-- The host operation selectors `HOP_*` (R7), a parameter family whose defaults are the numbering of R120
(D2). -/
structure HopCodes where
  /-- `HOP_NONE`: not a request; marks the ready sequencer. -/
  noRequest : Byte := 0x00
  writeRegister : Byte := 0x01
  writeRegisterOrMask : Byte := 0x02
  writeRegisterAndMask : Byte := 0x03
  readRegister : Byte := 0x04
  readEeprom : Byte := 0x05
  sendData : Byte := 0x06
  readData : Byte := 0x07
  loadRfConfig : Byte := 0x08
  rfOn : Byte := 0x09
  rfOff : Byte := 0x0A
  selfTest : Byte := 0x10
  getDieId : Byte := 0x11
  getProductVersion : Byte := 0x12
  getFirmwareVersion : Byte := 0x13
  getEepromVersion : Byte := 0x14
  setCommandIdle : Byte := 0x15
  setCommandTransceive : Byte := 0x16
  softwareReset : Byte := 0x17
  configureIso15693 : Byte := 0x18
  transceive : Byte := 0x19
  setFlags : Byte := 0x20
  getFlags : Byte := 0x21
  readSingleBlock : Byte := 0x22
  writeSingleBlock : Byte := 0x23
  select : Byte := 0x24
  resetToReady : Byte := 0x25
  lockAfi : Byte := 0x26
  lockDsfid : Byte := 0x27
  writeAfi : Byte := 0x28
  writeDsfid : Byte := 0x29
  getSystemInformation : Byte := 0x2A
  getMultipleBlockSecurityStatus : Byte := 0x2B
  custom : Byte := 0x2C
  inventory : Byte := 0x2D
  writeMultipleBlocks : Byte := 0x2E
  customWriteSingle : Byte := 0x2F
  classify : Byte := 0x30
  deriving DecidableEq, Repr

/-- The 37 selectors that name an operation, in the order of R120. -/
def HopCodes.all (h : HopCodes) : List Byte :=
  [h.writeRegister, h.writeRegisterOrMask, h.writeRegisterAndMask, h.readRegister, h.readEeprom, h.sendData,
   h.readData, h.loadRfConfig, h.rfOn, h.rfOff, h.selfTest, h.getDieId, h.getProductVersion,
   h.getFirmwareVersion, h.getEepromVersion, h.setCommandIdle, h.setCommandTransceive, h.softwareReset,
   h.configureIso15693, h.transceive, h.setFlags, h.getFlags, h.readSingleBlock, h.writeSingleBlock,
   h.select, h.resetToReady, h.lockAfi, h.lockDsfid, h.writeAfi, h.writeDsfid, h.getSystemInformation,
   h.getMultipleBlockSecurityStatus, h.custom, h.inventory, h.writeMultipleBlocks, h.customWriteSingle,
   h.classify]

/-- The widths of R6. The types of a register value and of the two EEPROM operands have these widths, so
`Config.wf` admits no other value (log 19). -/
structure Widths where
  regWidth : Nat := 32
  eepromAddrBits : Nat := 8
  eepromLenBits : Nat := 8
  deriving DecidableEq, Repr

/-- Addresses, field positions, codes and masks of the chip registers the sequences use, and the EEPROM
regions (R6, R7, R42 to R46). `TSTATE_FIELD` has three bits (90_conflicts C1). -/
structure ChipMap where
  regAddrLoMax : Byte := 0x29
  regAddrExt : Byte := 0x39
  regSystemConfig : Byte := 0x00
  regRxStatus : Byte := 0x13
  regRfStatus : Byte := 0x1D
  /-- Lowest bit of `CMD_FIELD`. -/
  cmdFieldLo : Nat := 0
  /-- How many bits `CMD_FIELD` has. -/
  cmdFieldBits : Nat := 3
  /-- `CMD_IDLE`, a value of the field. -/
  cmdIdle : Word := 0
  /-- `CMD_TRANSCEIVE`, a value of the field. -/
  cmdTransceive : Word := 3
  softResetBit : Nat := 8
  /-- Lowest bit of the three-bit `TSTATE_FIELD`. -/
  tstateFieldLo : Nat := 24
  maskCmdClear : Word := 0xFFFFFFF8
  maskCmdTransceive : Word := 0x00000003
  maskResetSet : Word := 0x00000100
  maskResetClear : Word := 0xFFFFFEFF
  eeDieId : Byte := 0x00
  eeProductVersion : Byte := 0x10
  eeFirmwareVersion : Byte := 0x12
  eeEepromVersion : Byte := 0x14
  dieIdLen : Byte := 16
  versionLen : Byte := 2
  deriving DecidableEq, Repr

/-- Fixed operand bytes of the block's own frames (R6, R7). -/
structure FrameBytes where
  probeByte : Byte := 0xFF
  noAnswerFlags : Byte := 0xFF
  readDataParam : Byte := 0x00
  rfOffParam : Byte := 0x00
  rfOnStandard : Byte := 0x00
  rfCfgTx : Byte := 0x0D
  rfCfgRx : Byte := 0x8D
  sendAllBits : Byte := 0
  flagsDefault : Byte := 0x01
  deriving DecidableEq, Repr

/-- Lengths and bounds (R6, R7). -/
structure Limits where
  regReadLen : Nat := 4
  rxMax : Nat := 508
  rxLenBits : Nat := 9
  validBitsMax : Nat := 7
  txMax : Nat := 260
  uidLen : Nat := 8
  blockLen : Nat := 8
  deriving DecidableEq, Repr

/-- The three durations in milliseconds (R6, R285). -/
structure Timing where
  tCmd : Nat := 5
  tReset : Nat := 50
  tSettle : Nat := 50
  deriving DecidableEq, Repr

/-- The configuration record (R6, R7): fixed for the machine, changed by no step. -/
structure Config where
  width : Widths := {}
  hop : HopCodes := {}
  opc : Opcodes := {}
  iso : IsoCodes := {}
  chip : ChipMap := {}
  bytes : FrameBytes := {}
  limits : Limits := {}
  time : Timing := {}
  deriving DecidableEq, Repr

/-- Every parameter at the default the spec gives it. -/
def Config.default : Config := {}

/-- `KNOWN` = 0..`REG_ADDR_LO_MAX` and `REG_ADDR_EXT` (R40): decided by the address alone (D37). -/
def ChipMap.known (m : ChipMap) (addr : Byte) : Bool :=
  addr ≤ m.regAddrLoMax || addr == m.regAddrExt

/-- The constraints of R8 on the chip's addresses, fields and masks, for registers of `regWidth` bits. -/
def ChipMap.wf (m : ChipMap) (regWidth : Nat) : Bool :=
  m.known m.regSystemConfig && m.known m.regRxStatus && m.known m.regRfStatus &&
  [m.regSystemConfig, m.regRxStatus, m.regRfStatus].Nodup &&
  m.cmdIdle != m.cmdTransceive &&
  decide (m.cmdIdle.toNat < 2 ^ m.cmdFieldBits) && decide (m.cmdTransceive.toNat < 2 ^ m.cmdFieldBits) &&
  m.cmdFieldLo + m.cmdFieldBits ≤ regWidth && m.tstateFieldLo + 3 ≤ regWidth && m.softResetBit < regWidth &&
  m.maskCmdClear == ~~~ (fieldMask m.cmdFieldLo m.cmdFieldBits) &&
  m.maskCmdTransceive == m.cmdTransceive <<< m.cmdFieldLo &&
  m.maskResetSet == (1 : Word) <<< m.softResetBit &&
  m.maskResetClear == ~~~ m.maskResetSet

/-- The widths are those of the types that hold the values (R6, log 19). -/
def Widths.wf (w : Widths) : Bool := w.regWidth == 32 && w.eepromAddrBits == 8 && w.eepromLenBits == 8

/-- The constraints of R8, with those the other rules rest on (log 18): `PROBE_BYTE` is no opcode (R105), the
reply of `READ_REGISTER` holds a register value (R11, R145), `CMD_IDLE` = 0, on which R172 relies, and the
selectors of R120 and the command codes of R115 are pairwise distinct, as their tables have them. -/
def Config.wf (c : Config) : Bool :=
  decide c.opc.all.Nodup && !(c.opc.all.contains c.bytes.probeByte) &&
  decide c.iso.implemented.Nodup && decide (c.hop.noRequest :: c.hop.all).Nodup && c.width.wf &&
  c.chip.wf c.width.regWidth && c.chip.cmdIdle == 0 &&
  8 * c.limits.regReadLen == c.width.regWidth && decide (c.limits.rxMax < 2 ^ c.limits.rxLenBits) &&
  decide (0 < c.limits.uidLen) && decide (c.limits.uidLen < 256) && decide (c.limits.rxMax < 65536) &&
  decide (0 < c.time.tCmd) && decide (0 < c.time.tReset) && decide (0 < c.time.tSettle)

/-- One event of the trace (R13): a transfer with the bytes sent and the bytes returned, or a delay in
milliseconds. -/
inductive Event where
  | xfer (sent received : List Byte)
  | delay (ms : Nat)
  deriving DecidableEq, Repr

/-! The free values of the oracle (R71, U1): no body, so nothing can be proved of them (log 3). -/

/-- What the oracle answers to a transfer for which no answer has been scripted: `none` is a failed transfer
(R70). It may depend on how many transfers were attempted, on the whole trace so far and on the bytes sent. -/
opaque Config.freeAnswer : Nat → List Event → List Byte → Option (List Byte)

/-- The byte at a position of a reply that the answer at hand does not supply (log 4). -/
opaque Config.freeByte : Nat → Nat → Byte

end Sys2Proof
end

