-- ==== Sys2Proof/Syntax.lean ====
section
/-! DEFINITION. The syntax of the block: the 37 host operations (spec 30_encoding R120, R121), their
selectors as an enumeration, the bus commands (R102) and the ISO-15693 requests (R111). -/

namespace Sys2Proof

/-- A tag identifier operand (R220): absent, or `UID_LEN` bytes (checked in WellFormed). -/
abbrev Uid := Option (List Byte)

/-- One constructor per row of the opcode table, with the operands of R121 at the widths of R22. -/
inductive Instr where
  | writeRegister (addr : Byte) (value : Word)
  | writeRegisterOrMask (addr : Byte) (mask : Word)
  | writeRegisterAndMask (addr : Byte) (mask : Word)
  | readRegister (addr : Byte)
  | readEeprom (eeAddr eeLen : Byte)
  | sendData (validBits : Byte) (payload : List Byte)
  | readData (len : BitVec 9)
  | loadRfConfig (txCfg rxCfg : Byte)
  | rfOn (mode : Byte)
  | rfOff
  | selfTest
  | getDieId
  | getProductVersion
  | getFirmwareVersion
  | getEepromVersion
  | setCommandIdle
  | setCommandTransceive
  | softwareReset
  | configureIso15693
  | transceive (frame : List Byte)
  | setFlags (newFlags : Byte)
  | getFlags
  | readSingleBlock (blk : Byte) (uid : Uid)
  | writeSingleBlock (blk : Byte) (data : List Byte) (uid : Uid)
  | select (uid : Uid)
  | resetToReady (uid : Uid)
  | lockAfi (uid : Uid)
  | lockDsfid (uid : Uid)
  | writeAfi (val : Byte) (uid : Uid)
  | writeDsfid (val : Byte) (uid : Uid)
  | getSystemInformation (uid : Uid)
  | getMultipleBlockSecurityStatus (first count : Byte) (uid : Uid)
  | custom (code mfg : Byte) (payload : List Byte) (uid : Uid)
  | inventory
  | writeMultipleBlocks
  | customWriteSingle
  | classify (cflags : Byte) (cdata : List Byte)
  deriving DecidableEq, Repr

/-- The operation selectors as an enumeration (R120, D2); `HOP_NONE` is the absence of one. -/
inductive Selector where
  | writeRegister | writeRegisterOrMask | writeRegisterAndMask | readRegister | readEeprom
  | sendData | readData | loadRfConfig | rfOn | rfOff
  | selfTest | getDieId | getProductVersion | getFirmwareVersion | getEepromVersion
  | setCommandIdle | setCommandTransceive | softwareReset | configureIso15693 | transceive
  | setFlags | getFlags | readSingleBlock | writeSingleBlock | select | resetToReady
  | lockAfi | lockDsfid | writeAfi | writeDsfid | getSystemInformation
  | getMultipleBlockSecurityStatus | custom | inventory | writeMultipleBlocks | customWriteSingle
  | classify
  deriving DecidableEq, Repr

/-- The selector that names an operation (R120). -/
def Instr.selector : Instr → Selector
  | .writeRegister _ _ => .writeRegister
  | .writeRegisterOrMask _ _ => .writeRegisterOrMask
  | .writeRegisterAndMask _ _ => .writeRegisterAndMask
  | .readRegister _ => .readRegister
  | .readEeprom _ _ => .readEeprom
  | .sendData _ _ => .sendData
  | .readData _ => .readData
  | .loadRfConfig _ _ => .loadRfConfig
  | .rfOn _ => .rfOn
  | .rfOff => .rfOff
  | .selfTest => .selfTest
  | .getDieId => .getDieId
  | .getProductVersion => .getProductVersion
  | .getFirmwareVersion => .getFirmwareVersion
  | .getEepromVersion => .getEepromVersion
  | .setCommandIdle => .setCommandIdle
  | .setCommandTransceive => .setCommandTransceive
  | .softwareReset => .softwareReset
  | .configureIso15693 => .configureIso15693
  | .transceive _ => .transceive
  | .setFlags _ => .setFlags
  | .getFlags => .getFlags
  | .readSingleBlock _ _ => .readSingleBlock
  | .writeSingleBlock _ _ _ => .writeSingleBlock
  | .select _ => .select
  | .resetToReady _ => .resetToReady
  | .lockAfi _ => .lockAfi
  | .lockDsfid _ => .lockDsfid
  | .writeAfi _ _ => .writeAfi
  | .writeDsfid _ _ => .writeDsfid
  | .getSystemInformation _ => .getSystemInformation
  | .getMultipleBlockSecurityStatus _ _ _ => .getMultipleBlockSecurityStatus
  | .custom _ _ _ _ => .custom
  | .inventory => .inventory
  | .writeMultipleBlocks => .writeMultipleBlocks
  | .customWriteSingle => .customWriteSingle
  | .classify _ _ => .classify

/-- A command frame of the bus, as its operation and the parameters that stand in the frame (R102).
`param` is the one parameter byte of `READ_DATA` and of `RF_OFF`. -/
inductive BusCommand where
  | writeRegister (addr : Byte) (value : Word)
  | writeRegisterOrMask (addr : Byte) (mask : Word)
  | writeRegisterAndMask (addr : Byte) (mask : Word)
  | readRegister (addr : Byte)
  | readEeprom (eeAddr eeLen : Byte)
  | sendData (validBits : Byte) (payload : List Byte)
  | readData (param : Byte)
  | loadRfConfig (txCfg rxCfg : Byte)
  | rfOn (mode : Byte)
  | rfOff (param : Byte)
  deriving DecidableEq, Repr

/-- An ISO-15693 request without its flags byte (R111). -/
inductive RfRequest where
  | readSingleBlock (uid : Uid) (blk : Byte)
  | writeSingleBlock (uid : Uid) (blk : Byte) (data : List Byte)
  | select (uid : List Byte)
  | resetToReady (uid : Uid)
  | lockAfi (uid : Uid)
  | lockDsfid (uid : Uid)
  | writeAfi (uid : Uid) (val : Byte)
  | writeDsfid (uid : Uid) (val : Byte)
  | getSystemInformation (uid : Uid)
  | getMultipleBlockSecurityStatus (uid : Uid) (first count : Byte)
  | custom (code mfg : Byte) (uid : Uid) (payload : List Byte)
  deriving DecidableEq, Repr

end Sys2Proof
end

