-- ==== Sys2Proof/WellFormed.lean ====
section
/-! DEFINITION. Which operations the request port can carry (spec 10_state R22, 42_iso15693_frames R220,
43_status_classification R240). What the port carries and the block then refuses (an over-long payload, an
unknown register) is well formed: the refusal is the machine's. -/

namespace Sys2Proof

/-- An identifier is absent or has exactly `UID_LEN` bytes (R220, D24). -/
def Uid.wf (c : Config) : Uid → Bool
  | none => true
  | some u => u.length == c.limits.uidLen

/-- The longest byte sequence the port's 16-bit length field can name (DESIGN CHOICE, log 5). -/
def portSeqMax : Nat := 65535

/-- A byte sequence the port can carry. -/
def seqWf (bs : List Byte) : Bool := decide (bs.length ≤ portSeqMax)

/-- The operands are such as the request port can carry. -/
def Instr.wf (c : Config) : Instr → Bool
  | .sendData _ payload => seqWf payload
  | .transceive frame => seqWf frame
  | .readSingleBlock _ uid => uid.wf c
  | .writeSingleBlock _ data uid => seqWf data && uid.wf c
  | .select uid => uid.wf c
  | .resetToReady uid => uid.wf c
  | .lockAfi uid => uid.wf c
  | .lockDsfid uid => uid.wf c
  | .writeAfi _ uid => uid.wf c
  | .writeDsfid _ uid => uid.wf c
  | .getSystemInformation uid => uid.wf c
  | .getMultipleBlockSecurityStatus _ _ uid => uid.wf c
  | .custom _ _ payload uid => seqWf payload && uid.wf c
  | .classify _ cdata => decide (cdata.length ≤ c.limits.rxMax)
  | .writeRegister _ _ => true
  | .writeRegisterOrMask _ _ => true
  | .writeRegisterAndMask _ _ => true
  | .readRegister _ => true
  | .readEeprom _ _ => true
  | .readData _ => true
  | .loadRfConfig _ _ => true
  | .rfOn _ => true
  | .rfOff => true
  | .selfTest => true
  | .getDieId => true
  | .getProductVersion => true
  | .getFirmwareVersion => true
  | .getEepromVersion => true
  | .setCommandIdle => true
  | .setCommandTransceive => true
  | .softwareReset => true
  | .configureIso15693 => true
  | .setFlags _ => true
  | .getFlags => true
  | .inventory => true
  | .writeMultipleBlocks => true
  | .customWriteSingle => true

/-- The request has the identifier lengths of R111, and a `CUSTOM` code is none of the ten implemented ones
(without that a decoder reads the standard command, R115). -/
def RfRequest.wf (c : Config) : RfRequest → Bool
  | .readSingleBlock uid _ => uid.wf c
  | .writeSingleBlock uid _ _ => uid.wf c
  | .select uid => uid.length == c.limits.uidLen
  | .resetToReady uid => uid.wf c
  | .lockAfi uid => uid.wf c
  | .lockDsfid uid => uid.wf c
  | .writeAfi uid _ => uid.wf c
  | .writeDsfid uid _ => uid.wf c
  | .getSystemInformation uid => uid.wf c
  | .getMultipleBlockSecurityStatus uid _ _ => uid.wf c
  | .custom code _ uid _ => uid.wf c && !(c.iso.implemented.contains code)

end Sys2Proof
end

