-- ==== Sys2Proof/Decode.lean ====
section
/-! DEFINITION. The encodings of spec 30_encoding: host selectors (R120), the request port's bytes (R121),
bus command frames (R102, R103) and ISO-15693 request frames (R111, R115); decoders, total on any bytes and
rejecting by name, and after them the encoders. -/

namespace Sys2Proof

/-- Why bytes are not an instruction or a frame. -/
inductive DecodeError where
  /-- No byte at all. -/
  | empty
  /-- The selector is `HOP_NONE` or not in the table of R120 (R122). -/
  | badSelector (selector : Byte)
  /-- The operand bytes end before the operation's operands do. -/
  | truncated
  /-- An identifier of a length the port cannot present (R220). -/
  | badUidLength (len : Byte)
  /-- `len` has nine bits; one of the upper seven of its two bytes is set. -/
  | badLenOperand
  /-- `cdata` is longer than `RX_MAX` (R240). -/
  | cdataTooLong
  /-- Byte 0 of a bus frame is none of the ten opcodes (R105). -/
  | unknownOpcode (opcode : Byte)
  /-- The frame does not have the length of its format (R102, R111). -/
  | badFrameLength
  deriving DecidableEq, Repr

/-! ### Host selectors -/

/-- The operations in the order of R120. -/
def Selector.all : List Selector :=
  [.writeRegister, .writeRegisterOrMask, .writeRegisterAndMask, .readRegister, .readEeprom, .sendData,
   .readData, .loadRfConfig, .rfOn, .rfOff, .selfTest, .getDieId, .getProductVersion, .getFirmwareVersion,
   .getEepromVersion, .setCommandIdle, .setCommandTransceive, .softwareReset, .configureIso15693,
   .transceive, .setFlags, .getFlags, .readSingleBlock, .writeSingleBlock, .select, .resetToReady, .lockAfi,
   .lockDsfid, .writeAfi, .writeDsfid, .getSystemInformation, .getMultipleBlockSecurityStatus, .custom,
   .inventory, .writeMultipleBlocks, .customWriteSingle, .classify]

/-- The selector byte of an operation (R120). -/
def Selector.code (h : HopCodes) : Selector → Byte
  | .writeRegister => h.writeRegister
  | .writeRegisterOrMask => h.writeRegisterOrMask
  | .writeRegisterAndMask => h.writeRegisterAndMask
  | .readRegister => h.readRegister
  | .readEeprom => h.readEeprom
  | .sendData => h.sendData
  | .readData => h.readData
  | .loadRfConfig => h.loadRfConfig
  | .rfOn => h.rfOn
  | .rfOff => h.rfOff
  | .selfTest => h.selfTest
  | .getDieId => h.getDieId
  | .getProductVersion => h.getProductVersion
  | .getFirmwareVersion => h.getFirmwareVersion
  | .getEepromVersion => h.getEepromVersion
  | .setCommandIdle => h.setCommandIdle
  | .setCommandTransceive => h.setCommandTransceive
  | .softwareReset => h.softwareReset
  | .configureIso15693 => h.configureIso15693
  | .transceive => h.transceive
  | .setFlags => h.setFlags
  | .getFlags => h.getFlags
  | .readSingleBlock => h.readSingleBlock
  | .writeSingleBlock => h.writeSingleBlock
  | .select => h.select
  | .resetToReady => h.resetToReady
  | .lockAfi => h.lockAfi
  | .lockDsfid => h.lockDsfid
  | .writeAfi => h.writeAfi
  | .writeDsfid => h.writeDsfid
  | .getSystemInformation => h.getSystemInformation
  | .getMultipleBlockSecurityStatus => h.getMultipleBlockSecurityStatus
  | .custom => h.custom
  | .inventory => h.inventory
  | .writeMultipleBlocks => h.writeMultipleBlocks
  | .customWriteSingle => h.customWriteSingle
  | .classify => h.classify

/-- The operation a selector byte names; none for `HOP_NONE` and every value that is no selector (R122). -/
def Selector.ofCode (h : HopCodes) (b : Byte) : Option Selector :=
  if b = h.noRequest then none else Selector.all.find? fun sel => sel.code h == b

/-! ### The request port's bytes

The spec gives the operands and their widths (R22, R121) and no wire layout for them. The layout here is the
model's (DESIGN CHOICE, log 5): the selector byte, then the operands in the order of R121, a 32-bit operand
little-endian, `len` as two bytes little-endian, a byte sequence after its length in two bytes little-endian,
an identifier after its length in one byte (0 when absent). -/

/-- What is read from the front of the bytes, with the bytes after it. -/
abbrev Parsed (α : Type) := Except DecodeError (α × List Byte)

/-- Reads on after what was read. -/
def andThen {α β : Type} (p : Parsed α) (k : α → List Byte → Parsed β) : Parsed β :=
  match p with
  | .ok (a, bs) => k a bs
  | .error e => .error e

def takeByte : List Byte → Parsed Byte
  | b :: rest => .ok (b, rest)
  | [] => .error .truncated

def takeWord : List Byte → Parsed Word
  | b0 :: b1 :: b2 :: b3 :: rest => .ok (de32 [b0, b1, b2, b3], rest)
  | _ => .error .truncated

def takeHalf : List Byte → Parsed (BitVec 16)
  | b0 :: b1 :: rest => .ok (de16 [b0, b1], rest)
  | _ => .error .truncated

/-- `n` bytes. -/
def takeBytes (n : Nat) (bs : List Byte) : Parsed (List Byte) :=
  if n ≤ bs.length then .ok (bs.take n, bs.drop n) else .error .truncated

/-- A byte sequence after its length. -/
def takeSeq (bs : List Byte) : Parsed (List Byte) :=
  match takeHalf bs with
  | .ok (n, rest) => takeBytes n.toNat rest
  | .error e => .error e

/-- The nine-bit `len` operand (R22). -/
def takeLen (bs : List Byte) : Parsed (BitVec 9) :=
  match takeHalf bs with
  | .ok (n, rest) => if n.toNat < 512 then .ok (n.setWidth 9, rest) else .error .badLenOperand
  | .error e => .error e

/-- An identifier: a zero length and absence are the same thing (R220). -/
def takeUid (c : Config) : List Byte → Parsed Uid
  | [] => .error .truncated
  | n :: rest =>
    if n.toNat = 0 then .ok (none, rest)
    else if n.toNat = c.limits.uidLen then
      match takeBytes n.toNat rest with
      | .ok (u, rest) => .ok (some u, rest)
      | .error e => .error e
    else .error (.badUidLength n)

/-- The operands of an operation, in the order of R121. -/
def decodeOperands (c : Config) (sel : Selector) (bs : List Byte) : Parsed Instr :=
  match sel with
  | .writeRegister =>
    andThen (takeByte bs) fun addr bs =>
    andThen (takeWord bs) fun value bs =>
    .ok (.writeRegister addr value, bs)
  | .writeRegisterOrMask =>
    andThen (takeByte bs) fun addr bs =>
    andThen (takeWord bs) fun mask bs =>
    .ok (.writeRegisterOrMask addr mask, bs)
  | .writeRegisterAndMask =>
    andThen (takeByte bs) fun addr bs =>
    andThen (takeWord bs) fun mask bs =>
    .ok (.writeRegisterAndMask addr mask, bs)
  | .readRegister =>
    andThen (takeByte bs) fun addr bs =>
    .ok (.readRegister addr, bs)
  | .readEeprom =>
    andThen (takeByte bs) fun addr bs =>
    andThen (takeByte bs) fun len bs =>
    .ok (.readEeprom addr len, bs)
  | .sendData =>
    andThen (takeByte bs) fun vb bs =>
    andThen (takeSeq bs) fun payload bs =>
    .ok (.sendData vb payload, bs)
  | .readData =>
    andThen (takeLen bs) fun len bs =>
    .ok (.readData len, bs)
  | .loadRfConfig =>
    andThen (takeByte bs) fun tx bs =>
    andThen (takeByte bs) fun rx bs =>
    .ok (.loadRfConfig tx rx, bs)
  | .rfOn =>
    andThen (takeByte bs) fun mode bs =>
    .ok (.rfOn mode, bs)
  | .rfOff => .ok (.rfOff, bs)
  | .selfTest => .ok (.selfTest, bs)
  | .getDieId => .ok (.getDieId, bs)
  | .getProductVersion => .ok (.getProductVersion, bs)
  | .getFirmwareVersion => .ok (.getFirmwareVersion, bs)
  | .getEepromVersion => .ok (.getEepromVersion, bs)
  | .setCommandIdle => .ok (.setCommandIdle, bs)
  | .setCommandTransceive => .ok (.setCommandTransceive, bs)
  | .softwareReset => .ok (.softwareReset, bs)
  | .configureIso15693 => .ok (.configureIso15693, bs)
  | .transceive =>
    andThen (takeSeq bs) fun frame bs =>
    .ok (.transceive frame, bs)
  | .setFlags =>
    andThen (takeByte bs) fun f bs =>
    .ok (.setFlags f, bs)
  | .getFlags => .ok (.getFlags, bs)
  | .readSingleBlock =>
    andThen (takeByte bs) fun blk bs =>
    andThen (takeUid c bs) fun uid bs =>
    .ok (.readSingleBlock blk uid, bs)
  | .writeSingleBlock =>
    andThen (takeByte bs) fun blk bs =>
    andThen (takeSeq bs) fun data bs =>
    andThen (takeUid c bs) fun uid bs =>
    .ok (.writeSingleBlock blk data uid, bs)
  | .select =>
    andThen (takeUid c bs) fun uid bs =>
    .ok (.select uid, bs)
  | .resetToReady =>
    andThen (takeUid c bs) fun uid bs =>
    .ok (.resetToReady uid, bs)
  | .lockAfi =>
    andThen (takeUid c bs) fun uid bs =>
    .ok (.lockAfi uid, bs)
  | .lockDsfid =>
    andThen (takeUid c bs) fun uid bs =>
    .ok (.lockDsfid uid, bs)
  | .writeAfi =>
    andThen (takeByte bs) fun val bs =>
    andThen (takeUid c bs) fun uid bs =>
    .ok (.writeAfi val uid, bs)
  | .writeDsfid =>
    andThen (takeByte bs) fun val bs =>
    andThen (takeUid c bs) fun uid bs =>
    .ok (.writeDsfid val uid, bs)
  | .getSystemInformation =>
    andThen (takeUid c bs) fun uid bs =>
    .ok (.getSystemInformation uid, bs)
  | .getMultipleBlockSecurityStatus =>
    andThen (takeByte bs) fun first bs =>
    andThen (takeByte bs) fun count bs =>
    andThen (takeUid c bs) fun uid bs =>
    .ok (.getMultipleBlockSecurityStatus first count uid, bs)
  | .custom =>
    andThen (takeByte bs) fun code bs =>
    andThen (takeByte bs) fun mfg bs =>
    andThen (takeSeq bs) fun payload bs =>
    andThen (takeUid c bs) fun uid bs =>
    .ok (.custom code mfg payload uid, bs)
  | .inventory => .ok (.inventory, bs)
  | .writeMultipleBlocks => .ok (.writeMultipleBlocks, bs)
  | .customWriteSingle => .ok (.customWriteSingle, bs)
  | .classify =>
    andThen (takeByte bs) fun flags bs =>
    andThen (takeSeq bs) fun data bs =>
    if data.length ≤ c.limits.rxMax then .ok (.classify flags data, bs)
    else .error .cdataTooLong

/-- The request the port carries, with the bytes after it (lines its operation does not use). -/
def decodeRequest (c : Config) : List Byte → Parsed Instr
  | [] => .error .empty
  | b :: bs =>
    match Selector.ofCode c.hop b with
    | some sel => decodeOperands c sel bs
    | none => .error (.badSelector b)

/-! ### Bus command frames -/

/-- The bus command a request transfer carries: byte 0 against the ten opcodes with mask 0xFF (R103), the
length against the format's (R102, R123). -/
def decodeBusFrame (c : Config) (frame : List Byte) : Except DecodeError BusCommand :=
  match frame with
  | [] => .error .empty
  | op :: ps =>
    if op = c.opc.writeRegister then
      match ps with
      | [a, b0, b1, b2, b3] => .ok (.writeRegister a (de32 [b0, b1, b2, b3]))
      | _ => .error .badFrameLength
    else if op = c.opc.writeRegisterOrMask then
      match ps with
      | [a, b0, b1, b2, b3] => .ok (.writeRegisterOrMask a (de32 [b0, b1, b2, b3]))
      | _ => .error .badFrameLength
    else if op = c.opc.writeRegisterAndMask then
      match ps with
      | [a, b0, b1, b2, b3] => .ok (.writeRegisterAndMask a (de32 [b0, b1, b2, b3]))
      | _ => .error .badFrameLength
    else if op = c.opc.readRegister then
      match ps with
      | [a] => .ok (.readRegister a)
      | _ => .error .badFrameLength
    else if op = c.opc.readEeprom then
      match ps with
      | [a, l] => .ok (.readEeprom a l)
      | _ => .error .badFrameLength
    else if op = c.opc.sendData then
      match ps with
      | vb :: payload => .ok (.sendData vb payload)
      | _ => .error .badFrameLength
    else if op = c.opc.readData then
      match ps with
      | [x] => .ok (.readData x)
      | _ => .error .badFrameLength
    else if op = c.opc.loadRfConfig then
      match ps with
      | [t, r] => .ok (.loadRfConfig t r)
      | _ => .error .badFrameLength
    else if op = c.opc.rfOn then
      match ps with
      | [m] => .ok (.rfOn m)
      | _ => .error .badFrameLength
    else if op = c.opc.rfOff then
      match ps with
      | [x] => .ok (.rfOff x)
      | _ => .error .badFrameLength
    else .error (.unknownOpcode op)

/-! ### ISO-15693 request frames -/

/-- The identifier part of a frame, when the decoder is told that there is one: a frame does not say so
itself (R112). -/
def splitUid (c : Config) (withUid : Bool) (ps : List Byte) : Parsed Uid :=
  if withUid then
    match takeBytes c.limits.uidLen ps with
    | .ok (u, rest) => .ok (some u, rest)
    | .error _ => .error .badFrameLength
  else .ok (none, ps)

/-- The request and its flags byte, read from a request frame of the block: byte 1 against the ten
implemented codes (R115). A frame with any other byte 1 was built by `CUSTOM` or by a raw `TRANSCEIVE`, and R115
does not tell the two apart: it is read as `CUSTOM`, and rejected when it is too short for that format (DESIGN
CHOICE, log 27). `withUid` says whether the frame carries an identifier (R112). -/
def decodeRfFrame (c : Config) (withUid : Bool) (frame : List Byte) :
    Except DecodeError (Byte × RfRequest) :=
  match frame with
  | flags :: code :: ps =>
    if code = c.iso.readSingleBlock then
      match splitUid c withUid ps with
      | .ok (u, [b]) => .ok (flags, .readSingleBlock u b)
      | _ => .error .badFrameLength
    else if code = c.iso.writeSingleBlock then
      match splitUid c withUid ps with
      | .ok (u, b :: data) => .ok (flags, .writeSingleBlock u b data)
      | _ => .error .badFrameLength
    else if code = c.iso.select then
      match splitUid c true ps with
      | .ok (some u, []) => .ok (flags, .select u)
      | _ => .error .badFrameLength
    else if code = c.iso.resetToReady then
      match splitUid c withUid ps with
      | .ok (u, []) => .ok (flags, .resetToReady u)
      | _ => .error .badFrameLength
    else if code = c.iso.lockAfi then
      match splitUid c withUid ps with
      | .ok (u, []) => .ok (flags, .lockAfi u)
      | _ => .error .badFrameLength
    else if code = c.iso.lockDsfid then
      match splitUid c withUid ps with
      | .ok (u, []) => .ok (flags, .lockDsfid u)
      | _ => .error .badFrameLength
    else if code = c.iso.writeAfi then
      match splitUid c withUid ps with
      | .ok (u, [v]) => .ok (flags, .writeAfi u v)
      | _ => .error .badFrameLength
    else if code = c.iso.writeDsfid then
      match splitUid c withUid ps with
      | .ok (u, [v]) => .ok (flags, .writeDsfid u v)
      | _ => .error .badFrameLength
    else if code = c.iso.getSystemInformation then
      match splitUid c withUid ps with
      | .ok (u, []) => .ok (flags, .getSystemInformation u)
      | _ => .error .badFrameLength
    else if code = c.iso.getMultipleBlockSecurityStatus then
      match splitUid c withUid ps with
      | .ok (u, [f, n]) => .ok (flags, .getMultipleBlockSecurityStatus u f n)
      | _ => .error .badFrameLength
    else
      match ps with
      | mfg :: ps =>
        match splitUid c withUid ps with
        | .ok (u, payload) => .ok (flags, .custom code mfg u payload)
        | .error e => .error e
      | [] => .error .badFrameLength
  | _ => .error .badFrameLength

/-! ### Encoders -/

/-- A byte sequence after its length. -/
def seqBytes (bs : List Byte) : List Byte := le16 (BitVec.ofNat 16 bs.length) ++ bs

/-- An identifier after its length. -/
def uidBytes : Uid → List Byte
  | none => [0]
  | some u => BitVec.ofNat 8 u.length :: u

/-- The operand bytes of an operation on the request port. -/
def encodeOperands : Instr → List Byte
  | .writeRegister addr value => addr :: le32 value
  | .writeRegisterOrMask addr mask => addr :: le32 mask
  | .writeRegisterAndMask addr mask => addr :: le32 mask
  | .readRegister addr => [addr]
  | .readEeprom addr len => [addr, len]
  | .sendData vb payload => vb :: seqBytes payload
  | .readData len => le16 (len.setWidth 16)
  | .loadRfConfig tx rx => [tx, rx]
  | .rfOn mode => [mode]
  | .rfOff => []
  | .selfTest => []
  | .getDieId => []
  | .getProductVersion => []
  | .getFirmwareVersion => []
  | .getEepromVersion => []
  | .setCommandIdle => []
  | .setCommandTransceive => []
  | .softwareReset => []
  | .configureIso15693 => []
  | .transceive frame => seqBytes frame
  | .setFlags f => [f]
  | .getFlags => []
  | .readSingleBlock blk uid => blk :: uidBytes uid
  | .writeSingleBlock blk data uid => blk :: seqBytes data ++ uidBytes uid
  | .select uid => uidBytes uid
  | .resetToReady uid => uidBytes uid
  | .lockAfi uid => uidBytes uid
  | .lockDsfid uid => uidBytes uid
  | .writeAfi val uid => val :: uidBytes uid
  | .writeDsfid val uid => val :: uidBytes uid
  | .getSystemInformation uid => uidBytes uid
  | .getMultipleBlockSecurityStatus first count uid => first :: count :: uidBytes uid
  | .custom code mfg payload uid => code :: mfg :: seqBytes payload ++ uidBytes uid
  | .inventory => []
  | .writeMultipleBlocks => []
  | .customWriteSingle => []
  | .classify flags data => flags :: seqBytes data

/-- The bytes of a request on the port: the selector, then the operands. -/
def encode (c : Config) (i : Instr) : List Byte := i.selector.code c.hop :: encodeOperands i

/-- The bus frame of a command: opcode, then parameters (R101, R102). -/
def BusCommand.frame (c : Config) : BusCommand → List Byte
  | .writeRegister addr value => [c.opc.writeRegister, addr] ++ le32 value
  | .writeRegisterOrMask addr mask => [c.opc.writeRegisterOrMask, addr] ++ le32 mask
  | .writeRegisterAndMask addr mask => [c.opc.writeRegisterAndMask, addr] ++ le32 mask
  | .readRegister addr => [c.opc.readRegister, addr]
  | .readEeprom addr len => [c.opc.readEeprom, addr, len]
  | .sendData vb payload => [c.opc.sendData, vb] ++ payload
  | .readData param => [c.opc.readData, param]
  | .loadRfConfig tx rx => [c.opc.loadRfConfig, tx, rx]
  | .rfOn mode => [c.opc.rfOn, mode]
  | .rfOff param => [c.opc.rfOff, param]

/-- The request frame `TXF`: the flags byte, the command code, and the parts of its format in the order of
R110 and R111. -/
def RfRequest.frame (c : Config) (flags : Byte) : RfRequest → List Byte
  | .readSingleBlock u blk => [flags, c.iso.readSingleBlock] ++ opt u ++ [blk]
  | .writeSingleBlock u blk data => [flags, c.iso.writeSingleBlock] ++ opt u ++ [blk] ++ data
  | .select u => [flags, c.iso.select] ++ u
  | .resetToReady u => [flags, c.iso.resetToReady] ++ opt u
  | .lockAfi u => [flags, c.iso.lockAfi] ++ opt u
  | .lockDsfid u => [flags, c.iso.lockDsfid] ++ opt u
  | .writeAfi u val => [flags, c.iso.writeAfi] ++ opt u ++ [val]
  | .writeDsfid u val => [flags, c.iso.writeDsfid] ++ opt u ++ [val]
  | .getSystemInformation u => [flags, c.iso.getSystemInformation] ++ opt u
  | .getMultipleBlockSecurityStatus u first count =>
    [flags, c.iso.getMultipleBlockSecurityStatus] ++ opt u ++ [first, count]
  | .custom code mfg u payload => [flags, code, mfg] ++ opt u ++ payload

/-- Whether the request's frame carries an identifier. -/
def RfRequest.hasUid : RfRequest → Bool
  | .readSingleBlock u _ => u.isSome
  | .writeSingleBlock u _ _ => u.isSome
  | .select _ => true
  | .resetToReady u => u.isSome
  | .lockAfi u => u.isSome
  | .lockDsfid u => u.isSome
  | .writeAfi u _ => u.isSome
  | .writeDsfid u _ => u.isSome
  | .getSystemInformation u => u.isSome
  | .getMultipleBlockSecurityStatus u _ _ => u.isSome
  | .custom _ _ u _ => u.isSome

/-! ### The opcode table's words

A row's `match` is one byte, of the selector for a `HOST` row, of byte 0 of the bus frame for a `BUS_*` row,
of byte 1 of the request frame for an `RF_*` row; the request port is decoded by `host_selector` for every
row (R124). -/

/-- The rows of format `HOST`: `match` is the selector itself. -/
def hostRow (h : HopCodes) (b : Byte) : Option Selector :=
  match Selector.ofCode h b with
  | some sel =>
    if sel ∈ [Selector.selfTest, .getDieId, .getProductVersion, .getFirmwareVersion, .getEepromVersion,
        .setCommandIdle, .setCommandTransceive, .softwareReset, .configureIso15693, .transceive,
        .setFlags, .getFlags, .inventory, .writeMultipleBlocks, .customWriteSingle, .classify]
    then some sel else none
  | none => none

/-- The rows of the `BUS_*` formats: `match` is the opcode. -/
def busRow (o : Opcodes) (b : Byte) : Option Selector :=
  if b = o.writeRegister then some .writeRegister
  else if b = o.writeRegisterOrMask then some .writeRegisterOrMask
  else if b = o.writeRegisterAndMask then some .writeRegisterAndMask
  else if b = o.readRegister then some .readRegister
  else if b = o.readEeprom then some .readEeprom
  else if b = o.sendData then some .sendData
  else if b = o.readData then some .readData
  else if b = o.loadRfConfig then some .loadRfConfig
  else if b = o.rfOn then some .rfOn
  else if b = o.rfOff then some .rfOff
  else none

/-- The rows of the `RF_*` formats: `match` is the command code; `CUSTOM` has mask 0 and matches any. -/
def rfRow (i : IsoCodes) (b : Byte) : Selector :=
  if b = i.readSingleBlock then .readSingleBlock
  else if b = i.writeSingleBlock then .writeSingleBlock
  else if b = i.select then .select
  else if b = i.resetToReady then .resetToReady
  else if b = i.writeAfi then .writeAfi
  else if b = i.lockAfi then .lockAfi
  else if b = i.writeDsfid then .writeDsfid
  else if b = i.lockDsfid then .lockDsfid
  else if b = i.getSystemInformation then .getSystemInformation
  else if b = i.getMultipleBlockSecurityStatus then .getMultipleBlockSecurityStatus
  else .custom

/-- The bytes on the request port for a byte of the table and the operand bytes after it. The three number
spaces overlap (R120); the rows are tried `HOST`, `BUS_*`, `RF_*`, `CUSTOM` (DESIGN CHOICE, log 8). -/
def portBytes (c : Config) (b : Byte) (operands : List Byte) : List Byte :=
  match hostRow c.hop b with
  | some sel => sel.code c.hop :: operands
  | none =>
    match busRow c.opc b with
    | some sel => sel.code c.hop :: operands
    | none =>
      match rfRow c.iso b with
      | .custom => Selector.custom.code c.hop :: b :: operands
      | sel => sel.code c.hop :: operands

/-- A table word as the bytes on the request port: `nbits` bits of `w`, low byte first, then operand bytes of
zero, enough for the longest operands that zeros can be. -/
def tableBytes (c : Config) (nbits w : Nat) : List Byte :=
  portBytes c (BitVec.ofNat 8 w)
    (((List.range ((nbits + 7) / 8)).drop 1).map (fun k => BitVec.ofNat 8 (w >>> (8 * k))) ++ rep 0 16)

/-- The instruction the request decoder reads from a word of the opcode table. -/
def decodeTableWord (nbits w : Nat) : Option Instr :=
  match decodeRequest Config.default (tableBytes Config.default nbits w) with
  | .ok (i, _) => some i
  | .error _ => none

end Sys2Proof
end

