-- ==== Sys2Proof/Machine/State.lean ====
section
/-! DEFINITION. The state of the machine: every block register of spec 10_state, the trace (00_scope R13),
the configuration record, the two ports' environments (60_exceptions R262, 20_memory R70, R71) and the
reference responder (20_memory R90); the reasons a step can stop; the state after reset (R55). -/

namespace Sys2Proof.Machine

/-- `OUTCOME`, 3 bits: the outcome of the last completed operation (R24). -/
inductive OpOutcome where
  | none | ok | tagError | noAnswer | statePreconditionFailed | rxLengthFault | refused | busUnavailable
  deriving DecidableEq, Repr

/-- `RES_REASON`, 3 bits: the reason of the last refusal, `none` after reset (R25, R256). -/
inductive Reason where
  | none | halted | badSelector | unimplemented | unknownRegister | badValidBits | badLength | missingUid
  deriving DecidableEq, Repr

/-- `SEQ` = (op, step): the operation in progress, none of them (`HOP_NONE`) when ready, and the number of
events it has produced so far (R26). -/
structure SeqReg where
  op : Option Selector := none
  step : BitVec 5 := 0
  deriving DecidableEq, Repr

/-- `SEQ` when the block is ready: `(HOP_NONE, 0)`. -/
def SeqReg.ready : SeqReg := { op := none, step := 0 }

/-- The operand latches: the selector `OP` and the operands of R22, each at its width. -/
structure Latches where
  op : Byte := 0
  addr : Byte := 0
  value : Word := 0
  mask : Word := 0
  eeAddr : Byte := 0
  eeLen : Byte := 0
  validBits : Byte := 0
  len : BitVec 9 := 0
  txCfg : Byte := 0
  rxCfg : Byte := 0
  mode : Byte := 0
  blk : Byte := 0
  first : Byte := 0
  count : Byte := 0
  val : Byte := 0
  code : Byte := 0
  mfg : Byte := 0
  newFlags : Byte := 0
  uid : Uid := Option.none
  data : List Byte := []
  payload : List Byte := []
  frame : List Byte := []
  cflags : Byte := 0
  cdata : List Byte := []
  deriving DecidableEq, Repr

/-- A chip-side memory: address and byte pairs, addresses strictly rising, no zero byte listed (the form is
`Memory.wf`); an unlisted address reads as zero. -/
abbrev Memory := List Host.Cell

/-- The state of the reference responder (R90). `tag` is the test-supplied function from request frame to
response, as a finite table with a response for every other frame (log 12). -/
structure Responder where
  reg : Memory := []
  eeprom : Memory := []
  txbuf : List Byte := []
  rxbuf : List Byte := []
  pending : List Byte := []
  rfOn : Bool := false
  rfCfg : Option (Byte × Byte) := Option.none
  tag : List (List Byte × List Byte) := []
  tagElse : List Byte := []
  forceTstate : Option (BitVec 3) := Option.none
  deriving DecidableEq, Repr

/-- What answers on the bus port. Not block state: the bus responder is a parameter of the step relation
(R20, R71), carried here because `step` takes the state alone (log 3). -/
inductive Bus where
  /-- The oracle: the answers of the coming transfers as far as they are scripted (`none` fails the
  transfer), free values after them; `drawn` counts the transfers attempted. -/
  | oracle (answers : List (Option (List Byte))) (drawn : Nat)
  /-- The reference responder, with the wrapper of R96 that fails the transfer `failIn` transfers ahead. -/
  | responder (chip : Responder) (failIn : Option Nat)
  deriving DecidableEq, Repr

/-- What the host and the reset line do, in the order they do it (R262, R280; log 6). -/
inductive HostInput where
  /-- A request presented and waited for, as the source's blocking calls are: one step runs the operation. -/
  | call (request : List Byte)
  /-- A request presented and not waited for: one step accepts it. -/
  | present (request : List Byte)
  /-- The block is given the time for one event. -/
  | tick
  /-- The reset input. -/
  | reset
  deriving DecidableEq, Repr

/-- The machine. `BUSY` has no field of its own: it is 1 exactly when `SEQ.op` is not `HOP_NONE` (R27). -/
structure State where
  flags : Byte
  latches : Latches
  txf : List Byte
  outcome : OpOutcome
  resFlags : Byte
  resData : List Byte
  resValue : Word
  resCode : Byte
  resCodeValid : Bool
  resFlagsOut : Byte
  resReason : Reason
  seq : SeqReg
  warn : Bool
  halt : Bool
  trace : List Event
  cfg : Config
  inputs : List HostInput
  bus : Bus
  deriving DecidableEq, Repr

/-- Why the machine stops. Neither reason is a condition of the spec's block (its conditions are outcomes,
R251, and go on): both name states no run of the hardware is in. -/
inductive Fault where
  /-- Raised by `step` when the request at the port is bytes that the port cannot carry: operands cut short,
  an identifier of another length (R220). Safe. -/
  | unpresentableRequest (e : DecodeError)
  /-- Raised by `step` when the block is busy and its latches and trace belong to no sequence. Safe. -/
  | incoherentSequencer
  deriving DecidableEq, Repr

/-- Why an instruction has no meaning. -/
inductive Refusal where
  /-- Raised by an arm of `exec` whose instruction is not modelled yet: none is left. Safe. -/
  | notModelled (mnemonic : String)
  deriving DecidableEq, Repr

/-- The machine right after reset (R55, R280), the trace empty, the configuration at its defaults, no request
presented and the oracle on the bus. The result registers and latches the spec leaves unspecified are zero or
empty (DESIGN CHOICE, log 2). -/
def State.reset : State where
  flags := Config.default.bytes.flagsDefault
  latches := {}
  txf := []
  outcome := .none
  resFlags := 0
  resData := []
  resValue := 0
  resCode := 0
  resCodeValid := false
  resFlagsOut := 0
  resReason := .none
  seq := SeqReg.ready
  warn := false
  halt := false
  trace := []
  cfg := Config.default
  inputs := []
  bus := .oracle [] 0

end Sys2Proof.Machine
end

