-- ==== Sys2Proof/Machine/Memory.lean ====
section
/-! DEFINITION. The chip-side memories of the reference responder as canonical lists of cells, and
`MemRead`/`MemWrite` over them (spec 00_scope R12, 20_memory R60, R90). The block itself has no memory (R60). -/

namespace Sys2Proof.Machine

/-- What an address with no cell reads as: registers start at 0 (R90); for the EEPROM, whose content the test
supplies, the same byte (DESIGN CHOICE, log 12). -/
def Memory.unlisted : Byte := 0

/-- The addresses rise strictly and no cell holds what an unlisted address reads as. -/
def Memory.wf : Memory → Bool
  | [] => true
  | (a, b) :: m =>
    b != Memory.unlisted && (match m with | [] => true | (a', _) :: _ => decide (a < a')) && Memory.wf m

/-- The byte at an address. -/
def Memory.read : Memory → Nat → Byte
  | [], _ => Memory.unlisted
  | (a', b) :: m, a => if a' = a then b else Memory.read m a

/-- The memory with byte `b` at address `a`, in canonical form. -/
def Memory.write : Memory → Nat → Byte → Memory
  | [], a, b => if b = Memory.unlisted then [] else [(a, b)]
  | (a', b') :: m, a, b =>
    if a < a' then (if b = Memory.unlisted then (a', b') :: m else (a, b) :: (a', b') :: m)
    else if a = a' then (if b = Memory.unlisted then m else (a, b) :: m)
    else (a', b') :: Memory.write m a b

/-- `MemRead(space, addr, n)`: `n` bytes from `addr` up. -/
def Memory.readBytes (m : Memory) (a : Nat) : Nat → List Byte
  | 0 => []
  | n + 1 => m.read a :: Memory.readBytes m (a + 1) n

/-- `MemWrite(space, addr, n, v)`: the bytes from `addr` up. -/
def Memory.writeBytes (m : Memory) (a : Nat) : List Byte → Memory
  | [] => m
  | b :: bs => Memory.writeBytes (m.write a b) (a + 1) bs

end Sys2Proof.Machine
end

