-- ==== Sys2Proof/Machine/Chip.lean ====
section
/-! DEFINITION. The reference responder (spec 20_memory R90 to R96), the transceive states (10_state R43) and
the informative register names (10_state R41). -/

namespace Sys2Proof.Machine

/-- The RF Transceive State (R43). -/
inductive TState where
  | idle | waitTransmit | transmitting | waitReceive | waitForData | receiving | loopback | reserved
  deriving DecidableEq, Repr

/-- The decoding of `TSTATE_FIELD` (R43). -/
def TState.ofField (f : BitVec 3) : TState :=
  match f.toNat with
  | 0 => .idle
  | 1 => .waitTransmit
  | 2 => .transmitting
  | 3 => .waitReceive
  | 4 => .waitForData
  | 5 => .receiving
  | 6 => .loopback
  | _ => .reserved

/-- The field value of a transceive state (R43). -/
def TState.toField : TState → BitVec 3
  | .idle => 0
  | .waitTransmit => 1
  | .transmitting => 2
  | .waitReceive => 3
  | .waitForData => 4
  | .receiving => 5
  | .loopback => 6
  | .reserved => 7

/-- The transceive state an RF status value shows: the field alone, every other bit ignored (R43). -/
def tstateOf (c : Config) (rfStatus : Word) : TState := TState.ofField (field3 c.chip.tstateFieldLo rfStatus)

/-- The command a system-config value holds: `CMD_FIELD` (R42). -/
def cmdOf (c : Config) (sysConfig : Word) : Word := fieldOf c.chip.cmdFieldLo c.chip.cmdFieldBits sysConfig

/-- The received byte count an RX status value shows: its low `RXLEN_BITS` bits (R44). -/
def rxLenOf (c : Config) (rxStatus : Word) : Nat := lowBits c.limits.rxLenBits rxStatus

/-- Where a register's four bytes begin in the responder's register memory. -/
def regBase (a : Byte) : Nat := 4 * a.toNat

/-- `MemRead(REG, a, 4)` (R92). -/
def Responder.readReg (r : Responder) (a : Byte) : Word := de32 (r.reg.readBytes (regBase a) 4)

/-- `MemWrite(REG, a, 4, v)` (R92). -/
def Responder.writeReg (r : Responder) (a : Byte) (v : Word) : Responder :=
  { r with reg := r.reg.writeBytes (regBase a) (le32 v) }

/-- `e(i)`: the EEPROM byte at an address of `EEPROM_ADDR_BITS` bits (0..255), 0xFF above (R93). -/
def Responder.eepromByte (c : Config) (r : Responder) (i : Nat) : Byte :=
  if i < 2 ^ c.width.eepromAddrBits then r.eeprom.read i else 0xFF

/-- `[e(a), …, e(a+l-1)]` (R93). -/
def Responder.eepromBytes (c : Config) (r : Responder) (a : Nat) : Nat → List Byte
  | 0 => []
  | l + 1 => Responder.eepromByte c r a :: Responder.eepromBytes c r (a + 1) l

/-- What the tag answers to a request frame (R90). -/
def Responder.answer (r : Responder) (frame : List Byte) : List Byte :=
  match r.tag.find? (fun p => p.1 == frame) with
  | some p => p.2
  | none => r.tagElse

/-- The transceive state the responder shows: forced, or WAIT_TRANSMIT while the command field holds
TRANSCEIVE, or IDLE (R92). -/
def Responder.tstateField (c : Config) (r : Responder) : BitVec 3 :=
  match r.forceTstate with
  | some f => f
  | none =>
    if cmdOf c (r.readReg c.chip.regSystemConfig) = c.chip.cmdTransceive
    then TState.waitTransmit.toField else TState.idle.toField

/-- What a read of register `a` returns: `reg[a]`, with the state bits substituted in the RF status
register (R92). -/
def Responder.readValue (c : Config) (r : Responder) (a : Byte) : Word :=
  if a = c.chip.regRfStatus then setField3 c.chip.tstateFieldLo (Responder.tstateField c r) (r.readReg a)
  else r.readReg a

/-- The effect of a request on the responder (R92 to R95). A register command whose address is not known has
none: `reg[a]` exists for known addresses only (DEDUCED, log 13). -/
def Responder.execute (c : Config) (r : Responder) : BusCommand → Responder
  | .writeRegister a v => if c.chip.known a then r.writeReg a v else r
  | .writeRegisterOrMask a m => if c.chip.known a then r.writeReg a (r.readReg a ||| m) else r
  | .writeRegisterAndMask a m => if c.chip.known a then r.writeReg a (r.readReg a &&& m) else r
  | .readRegister a => if c.chip.known a then { r with pending := le32 (Responder.readValue c r a) } else r
  | .readEeprom a l => { r with pending := Responder.eepromBytes c r a.toNat l.toNat }
  | .sendData _ p =>
    { r with txbuf := p, rxbuf := r.answer p }.writeReg c.chip.regRxStatus
      (BitVec.ofNat 32 (r.answer p).length)
  | .readData _ => { r with pending := r.rxbuf }
  | .loadRfConfig t x => { r with rfCfg := some (t, x) }
  | .rfOn _ => { r with rfOn := true }
  | .rfOff _ => { r with rfOn := false }

/-- The first `n` bytes of `bs`, 0xFF beyond its end. -/
def padFF (n : Nat) (bs : List Byte) : List Byte := bs.take n ++ rep 0xFF (n - bs.length)

/-- The transfer rule (R91): a probe while a reply is pending, a request otherwise; a request no rule reads
has no effect (R95). -/
def Responder.transfer (c : Config) (r : Responder) (sent : List Byte) : List Byte × Responder :=
  if r.pending = [] then
    match decodeBusFrame c sent with
    | .ok cmd => (rep 0xFF sent.length, r.execute c cmd)
    | .error _ => (rep 0xFF sent.length, r)
  else (padFF sent.length r.pending, { r with pending := [] })

/-- The register names of R41, first part: informative, general knowledge, used by no rule. -/
def registerNamesLow : List (Byte × String) :=
  [(0x00, "SYSTEM_CONFIG"), (0x01, "IRQ_ENABLE"), (0x02, "IRQ_STATUS"), (0x03, "IRQ_CLEAR"),
   (0x04, "TRANSCEIVER_CONFIG"), (0x05, "PADCONFIG"), (0x07, "PADOUT"), (0x08, "TIMER0_STATUS"),
   (0x09, "TIMER1_STATUS"), (0x0A, "TIMER2_STATUS"), (0x0B, "TIMER0_RELOAD"), (0x0C, "TIMER1_RELOAD"),
   (0x0D, "TIMER2_RELOAD"), (0x0E, "TIMER0_CONFIG"), (0x0F, "TIMER1_CONFIG"), (0x10, "TIMER2_CONFIG"),
   (0x11, "RX_WAIT_CONFIG"), (0x12, "CRC_RX_CONFIG"), (0x13, "RX_STATUS"), (0x14, "TX_UNDERSHOOT_CONFIG")]

/-- The register names of R41, second part. -/
def registerNamesHigh : List (Byte × String) :=
  [(0x15, "TX_OVERSHOOT_CONFIG"), (0x16, "TX_DATA_MOD"), (0x17, "TX_WAIT_CONFIG"), (0x18, "TX_CONFIG"),
   (0x19, "CRC_TX_CONFIG"), (0x1A, "SIGPRO_CONFIG"), (0x1B, "SIGPRO_CM_CONFIG"), (0x1C, "SIGPRO_RM_CONFIG"),
   (0x1D, "RF_STATUS"), (0x1E, "AGC_CONFIG"), (0x1F, "AGC_VALUE"), (0x20, "RF_CONTROL_TX"),
   (0x21, "RF_CONTROL_TX_CLK"), (0x22, "RF_CONTROL_RX"), (0x23, "LD_CONTROL"), (0x24, "SYSTEM_STATUS"),
   (0x25, "TEMP_CONTROL"), (0x26, "AGC_REF_CONFIG"), (0x27, "DPC_CONFIG"), (0x28, "EMD_CONTROL"),
   (0x29, "ANT_CONTROL")]

/-- The name of a chip register, where R41 knows one. -/
def registerName (a : Byte) : Option String :=
  ((registerNamesLow ++ registerNamesHigh).find? (fun p => p.1 == a)).map Prod.snd

end Sys2Proof.Machine
end

