-- ==== Sys2Proof/Machine/Bus.lean ====
section
/-! DEFINITION. `BusTransfer` against whatever answers on the bus port (spec 20_memory R70, R71, R96). -/

namespace Sys2Proof.Machine

/-- An answer cut or filled up to the length the contract requires, `len(in) = len(out)` (R70); the bytes
that are missing are free (log 4). -/
def fitAnswer (drawn n : Nat) (a : List Byte) : List Byte :=
  a.take n ++ (List.range (n - a.length)).map (fun k => Config.freeByte drawn (a.length + k))

/-- One transfer: the reply, or none when the transfer fails, and what answers the next one (R70). -/
def Bus.transfer (c : Config) (history : List Event) (sent : List Byte) : Bus → Option (List Byte) × Bus
  | .oracle (a :: rest) drawn => (a.map (fitAnswer drawn sent.length), .oracle rest (drawn + 1))
  | .oracle [] drawn =>
    ((Config.freeAnswer drawn history sent).map (fitAnswer drawn sent.length), .oracle [] (drawn + 1))
  | .responder chip failIn =>
    match failIn with
    | some 0 => (none, .responder chip none)
    | some (k + 1) => (some (chip.transfer c sent).1, .responder (chip.transfer c sent).2 (some k))
    | none => (some (chip.transfer c sent).1, .responder (chip.transfer c sent).2 none)

end Sys2Proof.Machine
end

