-- ==== Sys2Proof/Machine/Flags.lean ====
section
/-! DEFINITION. Everything the block computes for its flags and outcome: classification of a response
(spec 43_status_classification R241), the MALFORMED_INPUT warning (60_exceptions R252), the numeric codes of
`OUTCOME` and `RES_REASON` (10_state R24, 60_exceptions R256), the informative names of the request flags
(30_encoding R113) and of the tag error codes (R243). -/

namespace Sys2Proof.Machine

/-- The numeric encoding of `OUTCOME` (R24). -/
def OpOutcome.code : OpOutcome → BitVec 3
  | .none => 0
  | .ok => 1
  | .tagError => 2
  | .noAnswer => 3
  | .statePreconditionFailed => 4
  | .rxLengthFault => 5
  | .refused => 6
  | .busUnavailable => 7

/-- The numeric encoding of `RES_REASON` (R256). -/
def Reason.code : Reason → BitVec 3
  | .none => 0
  | .halted => 1
  | .badSelector => 2
  | .unimplemented => 3
  | .unknownRegister => 4
  | .badValidBits => 5
  | .badLength => 6
  | .missingUid => 7

/-- The result triple of a classification: (outcome, `RES_CODE`, `RES_CODE_VALID`) (R241). -/
structure Classified where
  outcome : OpOutcome
  code : Byte
  valid : Bool
  deriving DecidableEq, Repr

/-- `Classify(flags, data)` (R241), the cases in the order the rule tests them. -/
def Classify (c : Config) (flags : Byte) (data : List Byte) : Classified :=
  if flags = c.bytes.noAnswerFlags then { outcome := .noAnswer, code := 0, valid := false }
  else if flags ≠ 0 then
    match data with
    | code :: _ => { outcome := .tagError, code := code, valid := true }
    | [] => { outcome := .tagError, code := 0, valid := false }
  else { outcome := .ok, code := 0, valid := false }

/-- MALFORMED_INPUT: a write-block payload that is not `BLOCK_LEN` bytes long (R204, R252). -/
def malformed (c : Config) (data : List Byte) : Bool := data.length != c.limits.blockLen

/-- The request flags by the names of R113: informative, no operation looks at them. -/
structure RequestFlagBits where
  subCarrier : Bool
  dataRate : Bool
  inventory : Bool
  protocolExtension : Bool
  select : Bool
  address : Bool
  option : Bool
  reserved : Bool
  deriving DecidableEq, Repr

/-- The bit assignment of R113. The rule names bits 4 to 6 only when bit 2 (inventory) is 0; here they keep
those names whatever bit 2 is (DESIGN CHOICE, log 25). -/
def requestFlagBits (flags : Byte) : RequestFlagBits where
  subCarrier := flags.getLsbD 0
  dataRate := flags.getLsbD 1
  inventory := flags.getLsbD 2
  protocolExtension := flags.getLsbD 3
  select := flags.getLsbD 4
  address := flags.getLsbD 5
  option := flags.getLsbD 6
  reserved := flags.getLsbD 7

/-- `Describe(code)` (R243): the fixed table, total by its last line; informative. -/
def describe (code : Byte) : String :=
  match code.toNat with
  | 0x01 => "command not supported"
  | 0x02 => "command not recognised (format error)"
  | 0x03 => "command option not supported"
  | 0x0F => "error with no information given"
  | 0x10 => "specified block is not available"
  | 0x11 => "specified block is already locked and cannot be locked again"
  | 0x12 => "specified block is locked and its content cannot be changed"
  | 0x13 => "specified block was not successfully programmed"
  | 0x14 => "specified block was not successfully locked"
  | _ => "unhandled error"

end Sys2Proof.Machine
end

