-- ==== Sys2Proof/Machine/Operands.lean ====
section
/-! DEFINITION. The operand latches (spec 10_state R22) and the operand forms: how an operation's operands are
latched and read back, and the identifier operand (42_iso15693_frames R220). -/

namespace Sys2Proof.Machine

/-- Latches the selector and the operands of that operation; the latches of other operations' operands keep
what they hold (DESIGN CHOICE, log 10). -/
def Latches.latch (h : HopCodes) (l : Latches) (i : Instr) : Latches :=
  let l := { l with op := i.selector.code h }
  match i with
  | .writeRegister addr value => { l with addr, value }
  | .writeRegisterOrMask addr mask => { l with addr, mask }
  | .writeRegisterAndMask addr mask => { l with addr, mask }
  | .readRegister addr => { l with addr }
  | .readEeprom eeAddr eeLen => { l with eeAddr, eeLen }
  | .sendData validBits payload => { l with validBits, payload }
  | .readData len => { l with len }
  | .loadRfConfig txCfg rxCfg => { l with txCfg, rxCfg }
  | .rfOn mode => { l with mode }
  | .rfOff => l
  | .selfTest => l
  | .getDieId => l
  | .getProductVersion => l
  | .getFirmwareVersion => l
  | .getEepromVersion => l
  | .setCommandIdle => l
  | .setCommandTransceive => l
  | .softwareReset => l
  | .configureIso15693 => l
  | .transceive frame => { l with frame }
  | .setFlags newFlags => { l with newFlags }
  | .getFlags => l
  | .readSingleBlock blk uid => { l with blk, uid }
  | .writeSingleBlock blk data uid => { l with blk, data, uid }
  | .select uid => { l with uid }
  | .resetToReady uid => { l with uid }
  | .lockAfi uid => { l with uid }
  | .lockDsfid uid => { l with uid }
  | .writeAfi val uid => { l with val, uid }
  | .writeDsfid val uid => { l with val, uid }
  | .getSystemInformation uid => { l with uid }
  | .getMultipleBlockSecurityStatus first count uid => { l with first, count, uid }
  | .custom code mfg payload uid => { l with code, mfg, payload, uid }
  | .inventory => l
  | .writeMultipleBlocks => l
  | .customWriteSingle => l
  | .classify cflags cdata => { l with cflags, cdata }

/-- The operation a selector names, with the latched operands. -/
def Latches.instr (l : Latches) : Selector → Instr
  | .writeRegister => .writeRegister l.addr l.value
  | .writeRegisterOrMask => .writeRegisterOrMask l.addr l.mask
  | .writeRegisterAndMask => .writeRegisterAndMask l.addr l.mask
  | .readRegister => .readRegister l.addr
  | .readEeprom => .readEeprom l.eeAddr l.eeLen
  | .sendData => .sendData l.validBits l.payload
  | .readData => .readData l.len
  | .loadRfConfig => .loadRfConfig l.txCfg l.rxCfg
  | .rfOn => .rfOn l.mode
  | .rfOff => .rfOff
  | .selfTest => .selfTest
  | .getDieId => .getDieId
  | .getProductVersion => .getProductVersion
  | .getFirmwareVersion => .getFirmwareVersion
  | .getEepromVersion => .getEepromVersion
  | .setCommandIdle => .setCommandIdle
  | .setCommandTransceive => .setCommandTransceive
  | .softwareReset => .softwareReset
  | .configureIso15693 => .configureIso15693
  | .transceive => .transceive l.frame
  | .setFlags => .setFlags l.newFlags
  | .getFlags => .getFlags
  | .readSingleBlock => .readSingleBlock l.blk l.uid
  | .writeSingleBlock => .writeSingleBlock l.blk l.data l.uid
  | .select => .select l.uid
  | .resetToReady => .resetToReady l.uid
  | .lockAfi => .lockAfi l.uid
  | .lockDsfid => .lockDsfid l.uid
  | .writeAfi => .writeAfi l.val l.uid
  | .writeDsfid => .writeDsfid l.val l.uid
  | .getSystemInformation => .getSystemInformation l.uid
  | .getMultipleBlockSecurityStatus => .getMultipleBlockSecurityStatus l.first l.count l.uid
  | .custom => .custom l.code l.mfg l.payload l.uid
  | .inventory => .inventory
  | .writeMultipleBlocks => .writeMultipleBlocks
  | .customWriteSingle => .customWriteSingle
  | .classify => .classify l.cflags l.cdata

/-- `valid_bits` is 0..`VALID_BITS_MAX` (R147). -/
def validBitsOk (c : Config) (validBits : Byte) : Bool := decide (validBits.toNat ≤ c.limits.validBitsMax)

/-- A payload of `SEND_DATA` or a frame of `TRANSCEIVE` is 1..`TX_MAX` bytes (R147, R180). -/
def txLenOk (c : Config) (bs : List Byte) : Bool := decide (bs.length ≠ 0 ∧ bs.length ≤ c.limits.txMax)

/-- `len` is 0..`RX_MAX` (R148). -/
def rxLenOk (c : Config) (len : BitVec 9) : Bool := decide (len.toNat ≤ c.limits.rxMax)

/-- The identifier `SELECT` requires: a zero-length one is none (R205, R220). -/
def mandatoryUid (uid : Uid) : Option (List Byte) :=
  match uid with
  | some (b :: u) => some (b :: u)
  | some [] => none
  | none => none

end Sys2Proof.Machine
end

