-- ==== Sys2Proof/Machine/Ops.lean ====
section
/-! DEFINITION. The operations every meaning is written with: the sequences of bus transfers and delays and
the sub-operations they are built from (spec 20_memory R72, R73; 41_device_control R170, R180), acceptance,
refusal, bus failure and completion (60_exceptions R253, R256, R260, R262), and running a sequence whole or
one event at a time (10_state R26). -/

namespace Sys2Proof.Machine

/-! ### Sequences -/

/-- What a transceive sequence returns (R180): its outcome, the flags byte and the payload. -/
structure Exchange where
  outcome : OpOutcome
  flags : Byte
  data : List Byte
  deriving DecidableEq, Repr

/-- The final writes of an operation, by kind (R28); each also writes `OUTCOME`. -/
inductive Finish where
  /-- `OUTCOME <- OK` and nothing else. -/
  | ok
  /-- `RES_VALUE <- v` (R145). -/
  | value (v : Word)
  /-- `RES_DATA <- d` (R146, R148, R171). -/
  | data (d : List Byte)
  /-- `RES_FLAGS`, `RES_DATA` and the sequence's own outcome (R180); on `STATE_PRECONDITION_FAILED` also
  `RES_CODE_VALID <- 0` (D20, log 26). -/
  | exchange (e : Exchange)
  /-- The same, then classification (R202). -/
  | framed (e : Exchange)
  /-- `FLAGS <- f` (R200). -/
  | setFlags (f : Byte)
  /-- `RES_FLAGS_OUT <- FLAGS` (R201). -/
  | flagsOut
  /-- `CLASSIFY` (R240). -/
  | classified (flags : Byte) (data : List Byte)
  deriving DecidableEq, Repr

/-- The rest of an operation: complete, or a next event with what follows it, which for a transfer depends on
the bytes returned. A fixed list of events chosen by tests on replies, without loops (R183). -/
inductive Sequence where
  | done (f : Finish)
  | delay (ms : Nat) (after : Sequence)
  | xfer (sent : List Byte) (after : List Byte → Sequence)

/-- `ChipCommand(frame, rlen)` (R72): request transfer, its reply discarded; `Delay(T_CMD)`; a probe transfer
of `rlen` bytes when `rlen > 0`. -/
def chipCommand (c : Config) (cmd : BusCommand) (rlen : Nat) (after : List Byte → Sequence) : Sequence :=
  .xfer (cmd.frame c) fun _ =>
  .delay c.time.tCmd <|
  if 0 < rlen then .xfer (rep c.bytes.probeByte rlen) after else after []

/-- `ReadRegister(a)`: the decoded value of a four-byte reply (R145, R170). -/
def readRegister (c : Config) (a : Byte) (after : Word → Sequence) : Sequence :=
  chipCommand c (.readRegister a) c.limits.regReadLen fun reply => after (de32 reply)

/-- `WriteRegisterAndMask(REG_SYSTEM_CONFIG, MASK_CMD_CLEAR)`: the command field to IDLE (R172). -/
def commandIdle (c : Config) (after : Sequence) : Sequence :=
  chipCommand c (.writeRegisterAndMask c.chip.regSystemConfig c.chip.maskCmdClear) 0 fun _ => after

/-- Clear, then set, the command field: it ends at TRANSCEIVE (R173). -/
def commandTransceive (c : Config) (after : Sequence) : Sequence :=
  commandIdle c <|
  chipCommand c (.writeRegisterOrMask c.chip.regSystemConfig c.chip.maskCmdTransceive) 0 fun _ => after

/-- `ReadEeprom(a, l)` (R146, R170). -/
def readEeprom (c : Config) (a l : Byte) (after : List Byte → Sequence) : Sequence :=
  chipCommand c (.readEeprom a l) l.toNat after

/-- The six events of the chip's software reset (R174). -/
def chipReset (c : Config) (after : Sequence) : Sequence :=
  chipCommand c (.writeRegisterOrMask c.chip.regSystemConfig c.chip.maskResetSet) 0 fun _ =>
  .delay c.time.tReset <|
  chipCommand c (.writeRegisterAndMask c.chip.regSystemConfig c.chip.maskResetClear) 0 fun _ =>
  .delay c.time.tReset after

/-- The no-answer sentinel with an outcome (R180, D20). -/
def noExchange (c : Config) (o : OpOutcome) : Exchange :=
  { outcome := o, flags := c.bytes.noAnswerFlags, data := [] }

/-- Step 6 of the transceive sequence: flags byte and payload of the received bytes (R114, R180). -/
def received (c : Config) (r : List Byte) : Exchange :=
  match r with
  | [] => noExchange c .ok
  | f :: data => { outcome := .ok, flags := f, data := data }

/-- The transceive sequence (R180), ending with the final writes `fin` makes of what it returns. -/
def transceiveSequence (c : Config) (frame : List Byte) (fin : Exchange → Finish) : Sequence :=
  commandTransceive c <|
  readRegister c c.chip.regRfStatus fun rf =>
  if tstateOf c rf ≠ .waitTransmit then
    commandIdle c <| .done (fin (noExchange c .statePreconditionFailed))
  else
    chipCommand c (.sendData c.bytes.sendAllBits frame) 0 fun _ =>
    .delay c.time.tSettle <|
    readRegister c c.chip.regRxStatus fun rx =>
    if c.limits.rxMax < rxLenOf c rx then
      commandIdle c <| .done (fin (noExchange c .rxLengthFault))
    else
      chipCommand c (.readData c.bytes.readDataParam) (rxLenOf c rx) fun r =>
      commandIdle c <| .done (fin (received c r))

/-! ### Acceptance, refusal, bus failure, completion -/

/-- `BUSY` (R27). -/
def State.busy (s : State) : Bool := s.seq.op.isSome

/-- Acceptance (R262): `WARN` cleared, selector and operands latched, `TXF` empty (R23), `SEQ <- (OP, 0)`. -/
def State.accept (s : State) (i : Instr) : State :=
  { s with warn := false, latches := s.latches.latch s.cfg.hop i, txf := [], seq := { op := some i.selector, step := 0 } }

/-- Acceptance of a selector that names no operation: only the selector is there to latch (R262, log 24). -/
def State.acceptSelector (s : State) (b : Byte) : State :=
  { s with warn := false, latches := { s.latches with op := b }, txf := [] }

/-- `refuse(reason)` (R256). -/
def State.refuse (s : State) (r : Reason) : State :=
  { s with
    resReason := r
    outcome := if r = .halted then s.outcome else .refused
    seq := SeqReg.ready
    txf := [] }

/-- Taking `BusUnavailable` (R253): the one fatal condition; no cleanup, no result written. -/
def State.haltBus (s : State) : State :=
  { s with outcome := .busUnavailable, halt := true, seq := SeqReg.ready, txf := [] }

/-- One event of the operation in progress: it ends the trace and counts in `SEQ.step` (R13, R26). -/
def State.event (s : State) (e : Event) : State :=
  { s with trace := s.trace ++ [e], seq := { s.seq with step := s.seq.step + 1 } }

/-- `RES_FLAGS` and `RES_DATA` of a transceive (R180). -/
def State.writeExchange (s : State) (e : Exchange) : State :=
  { s with resFlags := e.flags, resData := e.data }

/-- `OUTCOME`, `RES_CODE`, `RES_CODE_VALID` from a classification (R202, R240). -/
def State.writeClassified (s : State) (k : Classified) : State :=
  { s with outcome := k.outcome, resCode := k.code, resCodeValid := k.valid }

/-- The final writes of an operation. -/
def State.results (s : State) : Finish → State
  | .ok => { s with outcome := .ok }
  | .value v => { s with resValue := v, outcome := .ok }
  | .data d => { s with resData := d, outcome := .ok }
  | .exchange e =>
    { s.writeExchange e with
      outcome := e.outcome
      resCodeValid := if e.outcome = .statePreconditionFailed then false else s.resCodeValid }
  | .framed e =>
    if e.outcome = .ok then (s.writeExchange e).writeClassified (Classify s.cfg e.flags e.data)
    else { s.writeExchange e with outcome := e.outcome, resCodeValid := false }
  | .setFlags f => { s with flags := f, outcome := .ok }
  | .flagsOut => { s with resFlagsOut := s.flags, outcome := .ok }
  | .classified flags data => s.writeClassified (Classify s.cfg flags data)

/-- Completion: the final writes, and the sequencer ready again (R26); `TXF` is discarded (R23, log 9). -/
def State.finish (s : State) (f : Finish) : State :=
  { s.results f with seq := SeqReg.ready, txf := [] }

/-! ### Running a sequence -/

/-- `BusTransfer` (R70): the reply with the event recorded, or the block halted, the failed transfer leaving
no event (R253). -/
def State.transfer (s : State) (sent : List Byte) : Option (List Byte) × State :=
  match Bus.transfer s.cfg s.trace sent s.bus with
  | (some reply, bus) => (some reply, State.event { s with bus := bus } (.xfer sent reply))
  | (none, bus) => (none, State.haltBus { s with bus := bus })

/-- The sequence from here to its end. -/
def Sequence.run : Sequence → State → State
  | .done f, s => s.finish f
  | .delay ms after, s => after.run (s.event (.delay ms))
  | .xfer sent after, s =>
    match s.transfer sent with
    | (some reply, s) => (after reply).run s
    | (none, s) => s

/-- Completes if nothing is left to do: completion comes with the last event (log 11). -/
def Sequence.settle (q : Sequence) (s : State) : State :=
  match q with
  | .done f => s.finish f
  | .delay _ _ => s
  | .xfer _ _ => s

/-- The next event of a sequence, and completion if it was the last. -/
def Sequence.once (q : Sequence) (s : State) : State :=
  match q with
  | .done f => s.finish f
  | .delay ms after => after.settle (s.event (.delay ms))
  | .xfer sent after =>
    match s.transfer sent with
    | (some reply, s) => (after reply).settle s
    | (none, s) => s

/-- What is left of a sequence after the events it has produced: the event at each value of `SEQ.step` is
fixed by the operation and the bytes returned so far (R26). None when the events are not its own. -/
def Sequence.resume : Sequence → List Event → Option Sequence
  | q, [] => some q
  | .delay ms after, .delay ms' :: es => if ms = ms' then after.resume es else none
  | .xfer sent after, .xfer sent' reply :: es => if sent = sent' then (after reply).resume es else none
  | .delay _ _, .xfer _ _ :: _ => none
  | .xfer _ _, .delay _ :: _ => none
  | .done _, _ :: _ => none

/-! ### Requests -/

/-- What an operation does once accepted: it refuses, or it sets `WARN` and `TXF` and runs a sequence. -/
inductive Plan where
  | refuse (r : Reason)
  | go (warn : Bool) (txf : List Byte) (body : Sequence)

/-- A sequence that needs neither `WARN` nor `TXF`. -/
def Plan.plain (body : Sequence) : Plan := .go false [] body

/-- What acceptance leads to: the request is closed at once (refused), or a sequence begins. -/
inductive Admitted where
  | closed (s : State)
  | running (q : Sequence) (s : State)

/-- Acceptance and the checks of R259: `HALTED` first, then the operation's own, in the order its plan makes
them. -/
def State.examine (s : State) (i : Instr) (plan : State → Plan) : Admitted :=
  let a := s.accept i
  if a.halt then .closed (a.refuse .halted)
  else
    match plan a with
    | .refuse r => .closed (a.refuse r)
    | .go warn txf body => .running body { a with warn := warn, txf := txf }

/-- A request presented and run to its end. While the block is busy it is not taken and has no effect
(R262). -/
def perform (i : Instr) (plan : State → Plan) (s : State) : State :=
  if s.busy then s
  else
    match s.examine i plan with
    | .closed t => t
    | .running q t => q.run t

/-- A request presented and only accepted: an operation without events completes at once (R200, R240). -/
def beginRequest (i : Instr) (plan : State → Plan) (s : State) : State :=
  if s.busy then s
  else
    match s.examine i plan with
    | .closed t => t
    | .running q t => q.settle t

/-- A request whose selector names no operation (R122, R256). -/
def rejectSelector (b : Byte) (s : State) : State :=
  if s.busy then s
  else
    let a := s.acceptSelector b
    if a.halt then a.refuse .halted else a.refuse .badSelector

/-- The reset input (R280): every block register takes its value of R55, an operation in progress is
abandoned, the trace, the chip and the ports are not touched. The registers the spec leaves unspecified take
the values they have in `State.reset` (log 2). -/
def State.blockReset (s : State) : State :=
  { s with
    flags := s.cfg.bytes.flagsDefault
    latches := State.reset.latches
    txf := []
    outcome := .none
    resFlags := State.reset.resFlags
    resData := State.reset.resData
    resValue := State.reset.resValue
    resCode := State.reset.resCode
    resCodeValid := false
    resFlagsOut := State.reset.resFlagsOut
    resReason := .none
    seq := SeqReg.ready
    warn := false
    halt := false }

end Sys2Proof.Machine
end

