-- ==== Sys2Proof/Machine/Codec.lean ====
section
/-! DEFINITION. The ten operations of the Command Codec (spec 40_command_codec R140 to R153). Each is one
`ChipCommand` and its result; the plan is what the operation does once accepted, the meaning is the request
presented and run to its end. -/

namespace Sys2Proof.Machine

/-- `WRITE_REGISTER` once accepted (R142). -/
def planWriteRegister (addr : Byte) (value : Word) (s : State) : Plan :=
  if s.cfg.chip.known addr then
    .plain <| chipCommand s.cfg (.writeRegister addr value) 0 fun _ => .done .ok
  else .refuse .unknownRegister

/-- `WRITE_REGISTER` (R142). -/
def execWriteRegister (addr : Byte) (value : Word) (s : State) : Host.Outcome State Fault Refusal :=
  .next (perform (.writeRegister addr value) (planWriteRegister addr value) s)

/-- `WRITE_REGISTER_OR_MASK` once accepted (R143). -/
def planWriteRegisterOrMask (addr : Byte) (mask : Word) (s : State) : Plan :=
  if s.cfg.chip.known addr then
    .plain <| chipCommand s.cfg (.writeRegisterOrMask addr mask) 0 fun _ => .done .ok
  else .refuse .unknownRegister

/-- `WRITE_REGISTER_OR_MASK` (R143). -/
def execWriteRegisterOrMask (addr : Byte) (mask : Word) (s : State) : Host.Outcome State Fault Refusal :=
  .next (perform (.writeRegisterOrMask addr mask) (planWriteRegisterOrMask addr mask) s)

/-- `WRITE_REGISTER_AND_MASK` once accepted (R144). -/
def planWriteRegisterAndMask (addr : Byte) (mask : Word) (s : State) : Plan :=
  if s.cfg.chip.known addr then
    .plain <| chipCommand s.cfg (.writeRegisterAndMask addr mask) 0 fun _ => .done .ok
  else .refuse .unknownRegister

/-- `WRITE_REGISTER_AND_MASK` (R144). -/
def execWriteRegisterAndMask (addr : Byte) (mask : Word) (s : State) : Host.Outcome State Fault Refusal :=
  .next (perform (.writeRegisterAndMask addr mask) (planWriteRegisterAndMask addr mask) s)

/-- `READ_REGISTER` once accepted (R145). -/
def planReadRegister (addr : Byte) (s : State) : Plan :=
  if s.cfg.chip.known addr then .plain <| readRegister s.cfg addr fun v => .done (.value v)
  else .refuse .unknownRegister

/-- `READ_REGISTER` (R145). -/
def execReadRegister (addr : Byte) (s : State) : Host.Outcome State Fault Refusal :=
  .next (perform (.readRegister addr) (planReadRegister addr) s)

/-- `READ_EEPROM` once accepted (R146). -/
def planReadEeprom (eeAddr eeLen : Byte) (s : State) : Plan :=
  .plain <| readEeprom s.cfg eeAddr eeLen fun d => .done (.data d)

/-- `READ_EEPROM` (R146). -/
def execReadEeprom (eeAddr eeLen : Byte) (s : State) : Host.Outcome State Fault Refusal :=
  .next (perform (.readEeprom eeAddr eeLen) (planReadEeprom eeAddr eeLen) s)

/-- `SEND_DATA` once accepted (R147). -/
def planSendData (validBits : Byte) (payload : List Byte) (s : State) : Plan :=
  if !validBitsOk s.cfg validBits then .refuse .badValidBits
  else if !txLenOk s.cfg payload then .refuse .badLength
  else .plain <| chipCommand s.cfg (.sendData validBits payload) 0 fun _ => .done .ok

/-- `SEND_DATA` (R147). -/
def execSendData (validBits : Byte) (payload : List Byte) (s : State) : Host.Outcome State Fault Refusal :=
  .next (perform (.sendData validBits payload) (planSendData validBits payload) s)

/-- `READ_DATA` once accepted (R148). -/
def planReadData (len : BitVec 9) (s : State) : Plan :=
  if !rxLenOk s.cfg len then .refuse .badLength
  else .plain <| chipCommand s.cfg (.readData s.cfg.bytes.readDataParam) len.toNat fun d => .done (.data d)

/-- `READ_DATA` (R148). -/
def execReadData (len : BitVec 9) (s : State) : Host.Outcome State Fault Refusal :=
  .next (perform (.readData len) (planReadData len) s)

/-- `LOAD_RF_CONFIG` once accepted (R149). -/
def planLoadRfConfig (txCfg rxCfg : Byte) (s : State) : Plan :=
  .plain <| chipCommand s.cfg (.loadRfConfig txCfg rxCfg) 0 fun _ => .done .ok

/-- `LOAD_RF_CONFIG` (R149). -/
def execLoadRfConfig (txCfg rxCfg : Byte) (s : State) : Host.Outcome State Fault Refusal :=
  .next (perform (.loadRfConfig txCfg rxCfg) (planLoadRfConfig txCfg rxCfg) s)

/-- `RF_ON` once accepted (R150). -/
def planRfOn (mode : Byte) (s : State) : Plan :=
  .plain <| chipCommand s.cfg (.rfOn mode) 0 fun _ => .done .ok

/-- `RF_ON` (R150). -/
def execRfOn (mode : Byte) (s : State) : Host.Outcome State Fault Refusal :=
  .next (perform (.rfOn mode) (planRfOn mode) s)

/-- `RF_OFF` once accepted (R151). -/
def planRfOff (s : State) : Plan :=
  .plain <| chipCommand s.cfg (.rfOff s.cfg.bytes.rfOffParam) 0 fun _ => .done .ok

/-- `RF_OFF` (R151). -/
def execRfOff (s : State) : Host.Outcome State Fault Refusal :=
  .next (perform .rfOff planRfOff s)

end Sys2Proof.Machine
end

