-- ==== Sys2Proof/Machine/DeviceControl.lean ====
section
/-! DEFINITION. The Device Control operations (spec 41_device_control R170 to R183): identity queries, the
command register, software reset, ISO-15693 configuration, and the raw transceive. -/

namespace Sys2Proof.Machine

/-- `SELF_TEST` once accepted (R171). -/
def planSelfTest (s : State) : Plan :=
  .plain <|
    readEeprom s.cfg s.cfg.chip.eeDieId s.cfg.chip.dieIdLen fun d =>
    readEeprom s.cfg s.cfg.chip.eeProductVersion s.cfg.chip.versionLen fun p =>
    readEeprom s.cfg s.cfg.chip.eeFirmwareVersion s.cfg.chip.versionLen fun f =>
    readEeprom s.cfg s.cfg.chip.eeEepromVersion s.cfg.chip.versionLen fun e =>
    .done (.data (d ++ p ++ f ++ e))

/-- `SELF_TEST` (R171). -/
def execSelfTest (s : State) : Host.Outcome State Fault Refusal :=
  .next (perform .selfTest planSelfTest s)

/-- `GET_DIE_ID` once accepted (R171). -/
def planGetDieId (s : State) : Plan :=
  .plain <| readEeprom s.cfg s.cfg.chip.eeDieId s.cfg.chip.dieIdLen fun d => .done (.data d)

/-- `GET_DIE_ID` (R171). -/
def execGetDieId (s : State) : Host.Outcome State Fault Refusal :=
  .next (perform .getDieId planGetDieId s)

/-- `GET_PRODUCT_VERSION` once accepted (R171). -/
def planGetProductVersion (s : State) : Plan :=
  .plain <| readEeprom s.cfg s.cfg.chip.eeProductVersion s.cfg.chip.versionLen fun d => .done (.data d)

/-- `GET_PRODUCT_VERSION` (R171). -/
def execGetProductVersion (s : State) : Host.Outcome State Fault Refusal :=
  .next (perform .getProductVersion planGetProductVersion s)

/-- `GET_FIRMWARE_VERSION` once accepted (R171). -/
def planGetFirmwareVersion (s : State) : Plan :=
  .plain <| readEeprom s.cfg s.cfg.chip.eeFirmwareVersion s.cfg.chip.versionLen fun d => .done (.data d)

/-- `GET_FIRMWARE_VERSION` (R171). -/
def execGetFirmwareVersion (s : State) : Host.Outcome State Fault Refusal :=
  .next (perform .getFirmwareVersion planGetFirmwareVersion s)

/-- `GET_EEPROM_VERSION` once accepted (R171). -/
def planGetEepromVersion (s : State) : Plan :=
  .plain <| readEeprom s.cfg s.cfg.chip.eeEepromVersion s.cfg.chip.versionLen fun d => .done (.data d)

/-- `GET_EEPROM_VERSION` (R171). -/
def execGetEepromVersion (s : State) : Host.Outcome State Fault Refusal :=
  .next (perform .getEepromVersion planGetEepromVersion s)

/-- `SET_COMMAND_IDLE` once accepted (R172). -/
def planSetCommandIdle (s : State) : Plan :=
  .plain <| commandIdle s.cfg <| .done .ok

/-- `SET_COMMAND_IDLE` (R172). -/
def execSetCommandIdle (s : State) : Host.Outcome State Fault Refusal :=
  .next (perform .setCommandIdle planSetCommandIdle s)

/-- `SET_COMMAND_TRANSCEIVE` once accepted (R173). -/
def planSetCommandTransceive (s : State) : Plan :=
  .plain <| commandTransceive s.cfg <| .done .ok

/-- `SET_COMMAND_TRANSCEIVE` (R173). -/
def execSetCommandTransceive (s : State) : Host.Outcome State Fault Refusal :=
  .next (perform .setCommandTransceive planSetCommandTransceive s)

/-- `SOFTWARE_RESET` once accepted (R174). -/
def planSoftwareReset (s : State) : Plan :=
  .plain <| chipReset s.cfg <| .done .ok

/-- `SOFTWARE_RESET` (R174). -/
def execSoftwareReset (s : State) : Host.Outcome State Fault Refusal :=
  .next (perform .softwareReset planSoftwareReset s)

/-- `CONFIGURE_ISO15693` once accepted (R175). -/
def planConfigureIso15693 (s : State) : Plan :=
  .plain <|
    chipReset s.cfg <|
    chipCommand s.cfg (.loadRfConfig s.cfg.bytes.rfCfgTx s.cfg.bytes.rfCfgRx) 0 fun _ =>
    chipCommand s.cfg (.rfOn s.cfg.bytes.rfOnStandard) 0 fun _ =>
    commandIdle s.cfg <| .done .ok

/-- `CONFIGURE_ISO15693` (R175). -/
def execConfigureIso15693 (s : State) : Host.Outcome State Fault Refusal :=
  .next (perform .configureIso15693 planConfigureIso15693 s)

/-- `TRANSCEIVE` once accepted (R180). -/
def planTransceive (frame : List Byte) (s : State) : Plan :=
  if !txLenOk s.cfg frame then .refuse .badLength
  else .plain <| transceiveSequence s.cfg frame .exchange

/-- `TRANSCEIVE` (R180). -/
def execTransceive (frame : List Byte) (s : State) : Host.Outcome State Fault Refusal :=
  .next (perform (.transceive frame) (planTransceive frame) s)

end Sys2Proof.Machine
end

