-- ==== Sys2Proof/Machine/Frames.lean ====
section
/-! DEFINITION. The ISO-15693 Frame Builder operations (spec 42_iso15693_frames R200 to R228): the request
flags register, one operation per framed command, and the three refused stubs. -/

namespace Sys2Proof.Machine

/-- The steps common to the framed commands (R202): build `TXF` from `FLAGS` as it stands, refuse a frame
longer than `TX_MAX` (R221), then the transceive sequence on it and the classification of its result. -/
def framed (s : State) (warn : Bool) (r : RfRequest) : Plan :=
  let frame := r.frame s.cfg s.flags
  if s.cfg.limits.txMax < frame.length then .refuse .badLength
  else .go warn frame (transceiveSequence s.cfg frame .framed)

/-- `SET_FLAGS` once accepted (R200). -/
def planSetFlags (newFlags : Byte) (_s : State) : Plan :=
  .plain <| .done (.setFlags newFlags)

/-- `SET_FLAGS` (R200). -/
def execSetFlags (newFlags : Byte) (s : State) : Host.Outcome State Fault Refusal :=
  .next (perform (.setFlags newFlags) (planSetFlags newFlags) s)

/-- `GET_FLAGS` once accepted (R201). -/
def planGetFlags (_s : State) : Plan :=
  .plain <| .done .flagsOut

/-- `GET_FLAGS` (R201). -/
def execGetFlags (s : State) : Host.Outcome State Fault Refusal :=
  .next (perform .getFlags planGetFlags s)

/-- `READ_SINGLE_BLOCK` once accepted (R203). -/
def planReadSingleBlock (blk : Byte) (uid : Uid) (s : State) : Plan :=
  framed s false (.readSingleBlock uid blk)

/-- `READ_SINGLE_BLOCK` (R203). -/
def execReadSingleBlock (blk : Byte) (uid : Uid) (s : State) : Host.Outcome State Fault Refusal :=
  .next (perform (.readSingleBlock blk uid) (planReadSingleBlock blk uid) s)

/-- `WRITE_SINGLE_BLOCK` once accepted (R204). -/
def planWriteSingleBlock (blk : Byte) (data : List Byte) (uid : Uid) (s : State) : Plan :=
  framed s (malformed s.cfg data) (.writeSingleBlock uid blk data)

/-- `WRITE_SINGLE_BLOCK` (R204). -/
def execWriteSingleBlock (blk : Byte) (data : List Byte) (uid : Uid) (s : State) : Host.Outcome State Fault Refusal :=
  .next (perform (.writeSingleBlock blk data uid) (planWriteSingleBlock blk data uid) s)

/-- `SELECT` once accepted (R205). -/
def planSelect (uid : Uid) (s : State) : Plan :=
  match mandatoryUid uid with
  | none => .refuse .missingUid
  | some u => framed s false (.select u)

/-- `SELECT` (R205). -/
def execSelect (uid : Uid) (s : State) : Host.Outcome State Fault Refusal :=
  .next (perform (.select uid) (planSelect uid) s)

/-- `RESET_TO_READY` once accepted (R206). -/
def planResetToReady (uid : Uid) (s : State) : Plan :=
  framed s false (.resetToReady uid)

/-- `RESET_TO_READY` (R206). -/
def execResetToReady (uid : Uid) (s : State) : Host.Outcome State Fault Refusal :=
  .next (perform (.resetToReady uid) (planResetToReady uid) s)

/-- `LOCK_AFI` once accepted (R207). -/
def planLockAfi (uid : Uid) (s : State) : Plan :=
  framed s false (.lockAfi uid)

/-- `LOCK_AFI` (R207). -/
def execLockAfi (uid : Uid) (s : State) : Host.Outcome State Fault Refusal :=
  .next (perform (.lockAfi uid) (planLockAfi uid) s)

/-- `LOCK_DSFID` once accepted (R208). -/
def planLockDsfid (uid : Uid) (s : State) : Plan :=
  framed s false (.lockDsfid uid)

/-- `LOCK_DSFID` (R208). -/
def execLockDsfid (uid : Uid) (s : State) : Host.Outcome State Fault Refusal :=
  .next (perform (.lockDsfid uid) (planLockDsfid uid) s)

/-- `WRITE_AFI` once accepted (R209). -/
def planWriteAfi (val : Byte) (uid : Uid) (s : State) : Plan :=
  framed s false (.writeAfi uid val)

/-- `WRITE_AFI` (R209). -/
def execWriteAfi (val : Byte) (uid : Uid) (s : State) : Host.Outcome State Fault Refusal :=
  .next (perform (.writeAfi val uid) (planWriteAfi val uid) s)

/-- `WRITE_DSFID` once accepted (R210). -/
def planWriteDsfid (val : Byte) (uid : Uid) (s : State) : Plan :=
  framed s false (.writeDsfid uid val)

/-- `WRITE_DSFID` (R210). -/
def execWriteDsfid (val : Byte) (uid : Uid) (s : State) : Host.Outcome State Fault Refusal :=
  .next (perform (.writeDsfid val uid) (planWriteDsfid val uid) s)

/-- `GET_SYSTEM_INFORMATION` once accepted (R211). -/
def planGetSystemInformation (uid : Uid) (s : State) : Plan :=
  framed s false (.getSystemInformation uid)

/-- `GET_SYSTEM_INFORMATION` (R211). -/
def execGetSystemInformation (uid : Uid) (s : State) : Host.Outcome State Fault Refusal :=
  .next (perform (.getSystemInformation uid) (planGetSystemInformation uid) s)

/-- `GET_MULTIPLE_BLOCK_SECURITY_STATUS` once accepted (R212). -/
def planGetMultipleBlockSecurityStatus (first count : Byte) (uid : Uid) (s : State) : Plan :=
  framed s false (.getMultipleBlockSecurityStatus uid first count)

/-- `GET_MULTIPLE_BLOCK_SECURITY_STATUS` (R212). -/
def execGetMultipleBlockSecurityStatus (first count : Byte) (uid : Uid) (s : State) : Host.Outcome State Fault Refusal :=
  .next (perform (.getMultipleBlockSecurityStatus first count uid) (planGetMultipleBlockSecurityStatus first count uid) s)

/-- `CUSTOM` once accepted (R213). -/
def planCustom (code mfg : Byte) (payload : List Byte) (uid : Uid) (s : State) : Plan :=
  framed s false (.custom code mfg uid payload)

/-- `CUSTOM` (R213). -/
def execCustom (code mfg : Byte) (payload : List Byte) (uid : Uid) (s : State) : Host.Outcome State Fault Refusal :=
  .next (perform (.custom code mfg payload uid) (planCustom code mfg payload uid) s)

/-- `INVENTORY` once accepted (R226). -/
def planInventory (_s : State) : Plan :=
  .refuse .unimplemented

/-- `INVENTORY` (R226). -/
def execInventory (s : State) : Host.Outcome State Fault Refusal :=
  .next (perform .inventory planInventory s)

/-- `WRITE_MULTIPLE_BLOCKS` once accepted (R227). -/
def planWriteMultipleBlocks (_s : State) : Plan :=
  .refuse .unimplemented

/-- `WRITE_MULTIPLE_BLOCKS` (R227). -/
def execWriteMultipleBlocks (s : State) : Host.Outcome State Fault Refusal :=
  .next (perform .writeMultipleBlocks planWriteMultipleBlocks s)

/-- `CUSTOM_WRITE_SINGLE` once accepted (R228). -/
def planCustomWriteSingle (_s : State) : Plan :=
  .refuse .unimplemented

/-- `CUSTOM_WRITE_SINGLE` (R228). -/
def execCustomWriteSingle (s : State) : Host.Outcome State Fault Refusal :=
  .next (perform .customWriteSingle planCustomWriteSingle s)

end Sys2Proof.Machine
end

