-- ==== Sys2Proof/Machine/Status.lean ====
section
/-! DEFINITION. The operation of Status/Error Classification (spec 43_status_classification R240); the function
it exposes is `Classify` in Machine/Flags.lean. -/

namespace Sys2Proof.Machine

/-- `CLASSIFY` once accepted (R240). -/
def planClassify (cflags : Byte) (cdata : List Byte) (_s : State) : Plan :=
  .plain <| .done (.classified cflags cdata)

/-- `CLASSIFY` (R240). -/
def execClassify (cflags : Byte) (cdata : List Byte) (s : State) : Host.Outcome State Fault Refusal :=
  .next (perform (.classify cflags cdata) (planClassify cflags cdata) s)

end Sys2Proof.Machine
end

