-- ==== Sys2Proof/Machine/Dispatch.lean ====
section
/-! DEFINITION. One arm per operation: the meaning of every instruction (spec 30_encoding R120). -/

namespace Sys2Proof.Machine

def exec (i : Instr) (s : State) : Host.Outcome State Fault Refusal :=
  match i with
  | .writeRegister addr value => Sys2Proof.Machine.execWriteRegister addr value s
  | .writeRegisterOrMask addr mask => Sys2Proof.Machine.execWriteRegisterOrMask addr mask s
  | .writeRegisterAndMask addr mask => Sys2Proof.Machine.execWriteRegisterAndMask addr mask s
  | .readRegister addr => Sys2Proof.Machine.execReadRegister addr s
  | .readEeprom eeAddr eeLen => Sys2Proof.Machine.execReadEeprom eeAddr eeLen s
  | .sendData validBits payload => Sys2Proof.Machine.execSendData validBits payload s
  | .readData len => Sys2Proof.Machine.execReadData len s
  | .loadRfConfig txCfg rxCfg => Sys2Proof.Machine.execLoadRfConfig txCfg rxCfg s
  | .rfOn mode => Sys2Proof.Machine.execRfOn mode s
  | .rfOff => Sys2Proof.Machine.execRfOff s
  | .selfTest => Sys2Proof.Machine.execSelfTest s
  | .getDieId => Sys2Proof.Machine.execGetDieId s
  | .getProductVersion => Sys2Proof.Machine.execGetProductVersion s
  | .getFirmwareVersion => Sys2Proof.Machine.execGetFirmwareVersion s
  | .getEepromVersion => Sys2Proof.Machine.execGetEepromVersion s
  | .setCommandIdle => Sys2Proof.Machine.execSetCommandIdle s
  | .setCommandTransceive => Sys2Proof.Machine.execSetCommandTransceive s
  | .softwareReset => Sys2Proof.Machine.execSoftwareReset s
  | .configureIso15693 => Sys2Proof.Machine.execConfigureIso15693 s
  | .transceive frame => Sys2Proof.Machine.execTransceive frame s
  | .setFlags newFlags => Sys2Proof.Machine.execSetFlags newFlags s
  | .getFlags => Sys2Proof.Machine.execGetFlags s
  | .readSingleBlock blk uid => Sys2Proof.Machine.execReadSingleBlock blk uid s
  | .writeSingleBlock blk data uid => Sys2Proof.Machine.execWriteSingleBlock blk data uid s
  | .select uid => Sys2Proof.Machine.execSelect uid s
  | .resetToReady uid => Sys2Proof.Machine.execResetToReady uid s
  | .lockAfi uid => Sys2Proof.Machine.execLockAfi uid s
  | .lockDsfid uid => Sys2Proof.Machine.execLockDsfid uid s
  | .writeAfi val uid => Sys2Proof.Machine.execWriteAfi val uid s
  | .writeDsfid val uid => Sys2Proof.Machine.execWriteDsfid val uid s
  | .getSystemInformation uid => Sys2Proof.Machine.execGetSystemInformation uid s
  | .getMultipleBlockSecurityStatus first count uid => Sys2Proof.Machine.execGetMultipleBlockSecurityStatus first count uid s
  | .custom code mfg payload uid => Sys2Proof.Machine.execCustom code mfg payload uid s
  | .inventory => Sys2Proof.Machine.execInventory s
  | .writeMultipleBlocks => Sys2Proof.Machine.execWriteMultipleBlocks s
  | .customWriteSingle => Sys2Proof.Machine.execCustomWriteSingle s
  | .classify cflags cdata => Sys2Proof.Machine.execClassify cflags cdata s

end Sys2Proof.Machine
end

