-- ==== Sys2Proof/Machine/Sequencer.lean ====
section
/-! DEFINITION. The sequencer at the grain of one event (spec 10_state R26, 60_exceptions R262): the plan of
every operation by constructor, a request accepted and not waited for, the next event of the operation in
progress, and what the port and the reset line do in one step. -/

namespace Sys2Proof.Machine

/-- The plan of an operation: what its meaning performs. -/
def planOf : Instr → State → Plan
  | .writeRegister addr value => planWriteRegister addr value
  | .writeRegisterOrMask addr mask => planWriteRegisterOrMask addr mask
  | .writeRegisterAndMask addr mask => planWriteRegisterAndMask addr mask
  | .readRegister addr => planReadRegister addr
  | .readEeprom eeAddr eeLen => planReadEeprom eeAddr eeLen
  | .sendData validBits payload => planSendData validBits payload
  | .readData len => planReadData len
  | .loadRfConfig txCfg rxCfg => planLoadRfConfig txCfg rxCfg
  | .rfOn mode => planRfOn mode
  | .rfOff => planRfOff
  | .selfTest => planSelfTest
  | .getDieId => planGetDieId
  | .getProductVersion => planGetProductVersion
  | .getFirmwareVersion => planGetFirmwareVersion
  | .getEepromVersion => planGetEepromVersion
  | .setCommandIdle => planSetCommandIdle
  | .setCommandTransceive => planSetCommandTransceive
  | .softwareReset => planSoftwareReset
  | .configureIso15693 => planConfigureIso15693
  | .transceive frame => planTransceive frame
  | .setFlags newFlags => planSetFlags newFlags
  | .getFlags => planGetFlags
  | .readSingleBlock blk uid => planReadSingleBlock blk uid
  | .writeSingleBlock blk data uid => planWriteSingleBlock blk data uid
  | .select uid => planSelect uid
  | .resetToReady uid => planResetToReady uid
  | .lockAfi uid => planLockAfi uid
  | .lockDsfid uid => planLockDsfid uid
  | .writeAfi val uid => planWriteAfi val uid
  | .writeDsfid val uid => planWriteDsfid val uid
  | .getSystemInformation uid => planGetSystemInformation uid
  | .getMultipleBlockSecurityStatus first count uid => planGetMultipleBlockSecurityStatus first count uid
  | .custom code mfg payload uid => planCustom code mfg payload uid
  | .inventory => planInventory
  | .writeMultipleBlocks => planWriteMultipleBlocks
  | .customWriteSingle => planCustomWriteSingle
  | .classify cflags cdata => planClassify cflags cdata

/-- Acceptance of a request that is not waited for (R262). -/
def accept (i : Instr) (s : State) : Host.Outcome State Fault Refusal := .next (beginRequest i (planOf i) s)

/-- The events the operation in progress has produced so far: the last `SEQ.step` of the trace (R26). -/
def State.produced (s : State) : List Event := s.trace.drop (s.trace.length - s.seq.step.toNat)

/-- What is left of the operation in progress: its sequence, from the latched selector and operands, after
the events produced so far (R22, R26). -/
def State.current (s : State) : Option Sequence :=
  match s.seq.op with
  | none => none
  | some sel =>
    match planOf (s.latches.instr sel) s with
    | .go _ _ body => body.resume s.produced
    | .refuse _ => none

/-- The block is given the time for one event: nothing when it is ready, the next event of the operation in
progress when it is busy. -/
def advance (s : State) : Host.Outcome State Fault Refusal :=
  if s.busy then
    match s.current with
    | some q => .next (q.once s)
    | none => .fault .incoherentSequencer
  else .next s

/-- Request bytes at the port, waited for (`wait`) or not: not taken while busy (R262); decoded, and run or
accepted; a selector that names no operation is refused by the block (R122). -/
def request (wait : Bool) (bytes : List Byte) (s : State) : Host.Outcome State Fault Refusal :=
  if s.busy then .next s
  else
    match decodeRequest s.cfg bytes with
    | .ok (i, _) => if wait then exec i s else accept i s
    | .error (.badSelector b) => .next (rejectSelector b s)
    | .error e => .fault (.unpresentableRequest e)

/-- One step: the next thing the host or the reset line does; with nothing to come, an operation in progress
goes on and a ready block waits (R280). -/
def takeInput (s : State) : Host.Outcome State Fault Refusal :=
  match s.inputs with
  | [] => advance s
  | .tick :: rest => advance { s with inputs := rest }
  | .reset :: rest => .next (State.blockReset { s with inputs := rest })
  | .call bytes :: rest => request true bytes { s with inputs := rest }
  | .present bytes :: rest => request false bytes { s with inputs := rest }

/-- Places a request, to be waited for, as the next thing the host does, with the block ready to take it. -/
def State.placeRequest (s : State) (bytes : List Byte) : State :=
  { s with inputs := .call bytes :: s.inputs, seq := SeqReg.ready }

end Sys2Proof.Machine
end

