-- ==== Sys2Proof/Machine/Step.lean ====
section
/-! DEFINITION. One step of the machine, and how a word of the opcode table comes to be the next request. -/

namespace Sys2Proof.Machine

/-- One step: the next input of the host or the reset line, or the next event of the operation in progress. -/
def step (s : State) : Host.Outcome State Fault Refusal := takeInput s

/-- The state with the instruction of a table word presented as the next request, so that the very next step
runs it (log 7). -/
def State.withFetchWord (s : State) (nbits w : Nat) : State := s.placeRequest (tableBytes s.cfg nbits w)

end Sys2Proof.Machine
end

