-- ==== Sys2Proof/Safety.lean ====
section
/-! DEFINITION. The terms the statements use: which events a bus answers, the states the rules name after an
operation, the shape of a trace, the registers an operation may write (spec 10_state R28), and the invariant
of the machine. -/

namespace Sys2Proof.Machine

/-! ### Events and what answers them -/

/-- What `t`'s trace has beyond `s`'s. -/
def newEvents (s t : State) : List Event := t.trace.drop s.trace.length

/-- The bus after it has answered these events in this order, from this trace on; none when it answers some
transfer with other bytes, or fails it. -/
def busAfter (c : Config) : List Event → List Event → Bus → Option Bus
  | [], _, bus => some bus
  | .delay ms :: es, trace, bus => busAfter c es (trace ++ [.delay ms]) bus
  | .xfer sent reply :: es, trace, bus =>
    if (Bus.transfer c trace sent bus).1 = some reply then
      busAfter c es (trace ++ [.xfer sent reply]) (Bus.transfer c trace sent bus).2
    else none

/-- What is on the bus port answers exactly these events, and is `bus` after them. For any reply bytes there
is a bus that answers so: a statement that assumes this holds for every reply (R71). -/
def Answered (s : State) (es : List Event) (bus : Bus) : Prop := busAfter s.cfg es s.trace s.bus = some bus

/-- Ready for a request that is not refused for being halted. -/
def State.Ready (s : State) : Prop := s.busy = false ∧ s.halt = false

/-- The event pair of a command without a reply: request transfer, `Delay(T_CMD)` (R72). -/
def commandEvents (c : Config) (cmd : BusCommand) (discarded : List Byte) : List Event :=
  [.xfer (cmd.frame c) discarded, .delay c.time.tCmd]

/-- The events of a command whose reply is `reply`: no probe when it is empty (R72, D35). -/
def replyEvents (c : Config) (cmd : BusCommand) (discarded reply : List Byte) : List Event :=
  commandEvents c cmd discarded ++
    if reply = [] then [] else [.xfer (rep c.bytes.probeByte reply.length) reply]

/-- The events that set the command field to IDLE (R172). -/
def idleEvents (c : Config) (d : List Byte) : List Event :=
  commandEvents c (.writeRegisterAndMask c.chip.regSystemConfig c.chip.maskCmdClear) d

/-- The events that set the command field to TRANSCEIVE (R173). -/
def acquireEvents (c : Config) (d0 d1 : List Byte) : List Event :=
  idleEvents c d0 ++
    commandEvents c (.writeRegisterOrMask c.chip.regSystemConfig c.chip.maskCmdTransceive) d1

/-- The six events of the chip's software reset (R174). -/
def resetEvents (c : Config) (d0 d1 : List Byte) : List Event :=
  commandEvents c (.writeRegisterOrMask c.chip.regSystemConfig c.chip.maskResetSet) d0 ++
    [.delay c.time.tReset] ++
    commandEvents c (.writeRegisterAndMask c.chip.regSystemConfig c.chip.maskResetClear) d1 ++
    [.delay c.time.tReset]

/-- Events 0 to 6 of the transceive sequence: acquire, then read the RF status (R180). -/
def transceiveHead (c : Config) (d0 d1 d2 rf : List Byte) : List Event :=
  acquireEvents c d0 d1 ++ replyEvents c (.readRegister c.chip.regRfStatus) d2 rf

/-- Events 7 to 12: send, settle, read the RX status (R180). -/
def transceiveMiddle (c : Config) (frame d3 d4 rx : List Byte) : List Event :=
  commandEvents c (.sendData c.bytes.sendAllBits frame) d3 ++ [.delay c.time.tSettle] ++
    replyEvents c (.readRegister c.chip.regRxStatus) d4 rx

/-- The last events of the normal path: fetch the bytes, release to IDLE (R180). -/
def transceiveTail (c : Config) (d5 r d6 : List Byte) : List Event :=
  replyEvents c (.readData c.bytes.readDataParam) d5 r ++ idleEvents c d6

/-! ### The states the rules name -/

/-- After a refusal (R256, R262): reason and outcome, `WARN` cleared, the operands latched; nothing else. -/
def State.afterRefusal (s : State) (i : Instr) (r : Reason) : State :=
  { s with
    warn := false, latches := s.latches.latch s.cfg.hop i, txf := [], resReason := r, outcome := .refused,
    seq := SeqReg.ready }

/-- After an operation that ran its events and writes no result register but `OUTCOME <- OK`. -/
def State.afterOk (s : State) (i : Instr) (es : List Event) (bus : Bus) : State :=
  { s with
    warn := false, latches := s.latches.latch s.cfg.hop i, txf := [], outcome := .ok, seq := SeqReg.ready,
    trace := s.trace ++ es, bus := bus }

/-- After a transfer failed, the events before it having run (R253). `warn` is 1 only of a write-block whose
payload is malformed (R204). -/
def State.afterFailure (s : State) (i : Instr) (warn : Bool) (es : List Event) (bus : Bus) : State :=
  { s with
    warn := warn, latches := s.latches.latch s.cfg.hop i, txf := [], outcome := .busUnavailable, halt := true,
    seq := SeqReg.ready, trace := s.trace ++ es, bus := bus }

/-- The bus fails this transfer after these events, and is `bus` then. -/
def FailsAfter (s : State) (es : List Event) (sent : List Byte) (bus : Bus) : Prop :=
  ∃ b, Answered s es b ∧ Bus.transfer s.cfg (s.trace ++ es) sent b = (none, bus)

/-- From `s` the operation produces exactly the events `es` when the bus answers them, and is then in `post`
of the bus that is left; and wherever one of their transfers fails instead, it stops there, halted, with the
events before that one (R70, R72, R253). -/
def RunsTo (i : Instr) (s : State) (warn : Bool) (es : List Event) (post : Bus → State) : Prop :=
  (∀ bus, Answered s es bus → exec i s = .next (post bus)) ∧
  (∀ before sent reply after bus, es = before ++ .xfer sent reply :: after →
    FailsAfter s before sent bus → exec i s = .next (s.afterFailure i warn before bus))

/-! ### Operations by kind -/

/-- The request a framed command builds (R203 to R213); none for the other operations, and for a `SELECT`
without the identifier it requires. -/
def rfRequestOf : Instr → Option RfRequest
  | .readSingleBlock blk uid => some (.readSingleBlock uid blk)
  | .writeSingleBlock blk data uid => some (.writeSingleBlock uid blk data)
  | .select uid => (mandatoryUid uid).map .select
  | .resetToReady uid => some (.resetToReady uid)
  | .lockAfi uid => some (.lockAfi uid)
  | .lockDsfid uid => some (.lockDsfid uid)
  | .writeAfi val uid => some (.writeAfi uid val)
  | .writeDsfid val uid => some (.writeDsfid uid val)
  | .getSystemInformation uid => some (.getSystemInformation uid)
  | .getMultipleBlockSecurityStatus first count uid => some (.getMultipleBlockSecurityStatus uid first count)
  | .custom code mfg payload uid => some (.custom code mfg uid payload)
  | .writeRegister _ _ => none
  | .writeRegisterOrMask _ _ => none
  | .writeRegisterAndMask _ _ => none
  | .readRegister _ => none
  | .readEeprom _ _ => none
  | .sendData _ _ => none
  | .readData _ => none
  | .loadRfConfig _ _ => none
  | .rfOn _ => none
  | .rfOff => none
  | .selfTest => none
  | .getDieId => none
  | .getProductVersion => none
  | .getFirmwareVersion => none
  | .getEepromVersion => none
  | .setCommandIdle => none
  | .setCommandTransceive => none
  | .softwareReset => none
  | .configureIso15693 => none
  | .transceive _ => none
  | .setFlags _ => none
  | .getFlags => none
  | .inventory => none
  | .writeMultipleBlocks => none
  | .customWriteSingle => none
  | .classify _ _ => none

/-- The frame a transceive sends for an operation, from the flags as they stand: a framed command's, or the
operand of a raw `TRANSCEIVE`. -/
def rfFrameOf (s : State) (i : Instr) : Option (List Byte) :=
  match i with
  | .transceive frame => some frame
  | i => (rfRequestOf i).map (RfRequest.frame s.cfg s.flags)

/-- MALFORMED_INPUT of an operation's operands (R204, R252). -/
def malformedOf (c : Config) : Instr → Bool
  | .writeSingleBlock _ data _ => data.length != c.limits.blockLen
  | _ => false

/-- A framed command's only check: its frame longer than `TX_MAX` (R221). -/
def frameRefusal (s : State) (r : RfRequest) : Option Reason :=
  if s.cfg.limits.txMax < (RfRequest.frame s.cfg s.flags r).length then some .badLength else none

/-- A register operation's only check: the address (R141). -/
def addressRefusal (s : State) (a : Byte) : Option Reason :=
  if s.cfg.chip.known a then none else some .unknownRegister

/-- Why an operation is refused when the block is ready and not halted: the checks of the operations in the
order their rules list them (R141, R147, R148, R180, R205, R221, R226 to R228, R259). -/
def refusalOf (s : State) : Instr → Option Reason
  | .writeRegister a _ => addressRefusal s a
  | .writeRegisterOrMask a _ => addressRefusal s a
  | .writeRegisterAndMask a _ => addressRefusal s a
  | .readRegister a => addressRefusal s a
  | .sendData vb payload =>
    if s.cfg.limits.validBitsMax < vb.toNat then some .badValidBits
    else if payload = [] ∨ s.cfg.limits.txMax < payload.length then some .badLength else none
  | .readData len => if s.cfg.limits.rxMax < len.toNat then some .badLength else none
  | .transceive frame =>
    if frame = [] ∨ s.cfg.limits.txMax < frame.length then some .badLength else none
  | .select uid =>
    match mandatoryUid uid with
    | none => some .missingUid
    | some u => frameRefusal s (.select u)
  | .readSingleBlock blk uid => frameRefusal s (.readSingleBlock uid blk)
  | .writeSingleBlock blk data uid => frameRefusal s (.writeSingleBlock uid blk data)
  | .resetToReady uid => frameRefusal s (.resetToReady uid)
  | .lockAfi uid => frameRefusal s (.lockAfi uid)
  | .lockDsfid uid => frameRefusal s (.lockDsfid uid)
  | .writeAfi val uid => frameRefusal s (.writeAfi uid val)
  | .writeDsfid val uid => frameRefusal s (.writeDsfid uid val)
  | .getSystemInformation uid => frameRefusal s (.getSystemInformation uid)
  | .getMultipleBlockSecurityStatus first count uid =>
    frameRefusal s (.getMultipleBlockSecurityStatus uid first count)
  | .custom code mfg payload uid => frameRefusal s (.custom code mfg uid payload)
  | .inventory => some .unimplemented
  | .writeMultipleBlocks => some .unimplemented
  | .customWriteSingle => some .unimplemented
  | .readEeprom _ _ => none
  | .loadRfConfig _ _ => none
  | .rfOn _ => none
  | .rfOff => none
  | .selfTest => none
  | .getDieId => none
  | .getProductVersion => none
  | .getFirmwareVersion => none
  | .getEepromVersion => none
  | .setCommandIdle => none
  | .setCommandTransceive => none
  | .softwareReset => none
  | .configureIso15693 => none
  | .setFlags _ => none
  | .getFlags => none
  | .classify _ _ => none

/-- The block registers of R28's table, with those every operation leaves alone. -/
inductive BlockReg where
  | flags | resFlags | resData | resValue | resCode | resCodeValid | resFlagsOut | resReason | halt
  | cfg | inputs | trace | bus
  deriving DecidableEq, Repr

/-- The register holds in `t` what it holds in `s`. -/
def BlockReg.same (s t : State) : BlockReg → Prop
  | .flags => t.flags = s.flags
  | .resFlags => t.resFlags = s.resFlags
  | .resData => t.resData = s.resData
  | .resValue => t.resValue = s.resValue
  | .resCode => t.resCode = s.resCode
  | .resCodeValid => t.resCodeValid = s.resCodeValid
  | .resFlagsOut => t.resFlagsOut = s.resFlagsOut
  | .resReason => t.resReason = s.resReason
  | .halt => t.halt = s.halt
  | .cfg => t.cfg = s.cfg
  | .inputs => t.inputs = s.inputs
  | .trace => t.trace = s.trace
  | .bus => t.bus = s.bus

/-- The registers an operation may write beside `SEQ`, `WARN`, `OUTCOME`, the latches and `TXF`: the row of
R28's table, and the trace, the bus and `HALT` for an operation that uses the bus (R253). A refusal writes
`RES_REASON` (R28). `TRANSCEIVE` writes `RES_CODE_VALID` on a failed precondition alone (D20, log 26). -/
def writesOf : Instr → List BlockReg
  | .writeRegister _ _ | .writeRegisterOrMask _ _ | .writeRegisterAndMask _ _ => [.resReason, .trace, .bus, .halt]
  | .readRegister _ => [.resValue, .resReason, .trace, .bus, .halt]
  | .readEeprom _ _ | .readData _ => [.resData, .resReason, .trace, .bus, .halt]
  | .sendData _ _ | .loadRfConfig _ _ | .rfOn _ | .rfOff => [.resReason, .trace, .bus, .halt]
  | .selfTest | .getDieId | .getProductVersion | .getFirmwareVersion | .getEepromVersion =>
    [.resData, .resReason, .trace, .bus, .halt]
  | .setCommandIdle | .setCommandTransceive | .softwareReset | .configureIso15693 =>
    [.resReason, .trace, .bus, .halt]
  | .transceive _ => [.resFlags, .resData, .resCodeValid, .resReason, .trace, .bus, .halt]
  | .setFlags _ => [.flags, .resReason]
  | .getFlags => [.resFlagsOut, .resReason]
  | .readSingleBlock _ _ | .writeSingleBlock _ _ _ | .select _ | .resetToReady _ | .lockAfi _ | .lockDsfid _
  | .writeAfi _ _ | .writeDsfid _ _ | .getSystemInformation _ | .getMultipleBlockSecurityStatus _ _ _
  | .custom _ _ _ _ => [.resFlags, .resData, .resCode, .resCodeValid, .resReason, .trace, .bus, .halt]
  | .classify _ _ => [.resCode, .resCodeValid, .resReason]
  | .inventory | .writeMultipleBlocks | .customWriteSingle => [.resReason]

/-- The chip registers the commands of an operation store to: its own, the system-config register by the
command field and reset masks, the RX status register by the responder's answer to a `SEND_DATA` (R92, R94). -/
def storesTo (c : Config) : Instr → List Byte
  | .writeRegister a _ | .writeRegisterOrMask a _ | .writeRegisterAndMask a _ => [a]
  | .sendData _ _ => [c.chip.regRxStatus]
  | .setCommandIdle | .setCommandTransceive | .softwareReset | .configureIso15693 => [c.chip.regSystemConfig]
  | .transceive _ | .readSingleBlock _ _ | .writeSingleBlock _ _ _ | .select _ | .resetToReady _ | .lockAfi _
  | .lockDsfid _ | .writeAfi _ _ | .writeDsfid _ _ | .getSystemInformation _
  | .getMultipleBlockSecurityStatus _ _ _ | .custom _ _ _ _ => [c.chip.regSystemConfig, c.chip.regRxStatus]
  | .readRegister _ | .readEeprom _ _ | .readData _ | .loadRfConfig _ _ | .rfOn _ | .rfOff | .selfTest
  | .getDieId | .getProductVersion | .getFirmwareVersion | .getEepromVersion | .setFlags _ | .getFlags
  | .inventory | .writeMultipleBlocks | .customWriteSingle | .classify _ _ => []

/-! ### The shape of a trace -/

/-- A transfer of nothing but `PROBE_BYTE` (R72). -/
def isProbe (c : Config) (sent : List Byte) : Bool := sent.all (· == c.bytes.probeByte)

/-- The bus commands of a trace, in order; a probe is none (R105). -/
def commandsOf (c : Config) : List Event → List BusCommand
  | [] => []
  | .delay _ :: es => commandsOf c es
  | .xfer sent _ :: es =>
    match decodeBusFrame c sent with
    | .ok cmd => cmd :: commandsOf c es
    | .error _ => commandsOf c es

/-- The command is a `SEND_DATA`. -/
def isSend : BusCommand → Bool
  | .sendData _ _ => true
  | _ => false

/-- The command is a `READ_DATA`. -/
def isRead : BusCommand → Bool
  | .readData _ => true
  | _ => false

/-- Every transfer is a whole command of the ten or a probe (R103, R105). -/
def wellSpoken (c : Config) : List Event → Prop
  | [] => True
  | .delay _ :: es => wellSpoken c es
  | .xfer sent _ :: es =>
    ((∃ cmd, decodeBusFrame c sent = .ok cmd) ∨ (isProbe c sent = true ∧ sent ≠ [])) ∧ wellSpoken c es

/-- Every request transfer is followed at once by `Delay(T_CMD)` (R72, R285). -/
def wellSettled (c : Config) : List Event → Prop
  | [] => True
  | .delay _ :: es => wellSettled c es
  | .xfer sent _ :: es =>
    (isProbe c sent = true ∨ es.head? = some (.delay c.time.tCmd)) ∧ wellSettled c es

/-- The replies of the probe transfers, in order. -/
def probeReplies (c : Config) : List Event → List (List Byte)
  | [] => []
  | .delay _ :: es => probeReplies c es
  | .xfer sent reply :: es => if isProbe c sent then reply :: probeReplies c es else probeReplies c es

/-- What the block did, without the bytes returned: transfers by what they sent, and delays. -/
def shapeOf : List Event → List (List Byte ⊕ Nat)
  | [] => []
  | .delay ms :: es => .inr ms :: shapeOf es
  | .xfer sent _ :: es => .inl sent :: shapeOf es

/-- The least time in milliseconds the delays of a trace take (R292). -/
def totalDelay : List Event → Nat
  | [] => 0
  | .delay ms :: es => ms + totalDelay es
  | .xfer _ _ :: es => totalDelay es

/-! ### The invariant -/

/-- A transfer is an exchange of equal length of at least one byte (R70). -/
def eventWf : Event → Bool
  | .delay _ => true
  | .xfer sent reply => sent != [] && sent.length == reply.length

/-- The responder's memories are in canonical form. -/
def Bus.wf : Bus → Bool
  | .oracle _ _ => true
  | .responder chip _ => chip.reg.wf && chip.eeprom.wf

/-- The longest `RES_DATA` an operation can leave: `RX_MAX`, an EEPROM read's 255, or the self test's report. -/
def dataBound (c : Config) : Nat :=
  max c.limits.rxMax (max (2 ^ c.width.eepromLenBits - 1) (c.chip.dieIdLen.toNat + 3 * c.chip.versionLen.toNat))

/-- Something is left to do. -/
def Sequence.unfinished : Sequence → Bool
  | .done _ => false
  | .delay _ _ => true
  | .xfer _ _ => true

/-- The invariant of the machine, kept by every step from every state that has it. -/
structure State.Inv (s : State) : Prop where
  /-- The parameters meet R8. -/
  cfg_wf : s.cfg.wf = true
  /-- A ready sequencer is `(HOP_NONE, 0)` and holds no frame (R23, R26). -/
  ready : s.busy = false → s.seq = SeqReg.ready ∧ s.txf = []
  /-- A busy one runs the latched operation (R22, R26). -/
  latched : ∀ sel, s.seq.op = some sel → s.latches.op = sel.code s.cfg.hop
  /-- The events produced so far are the operation's own (R26), and at least one is left (log 11). -/
  coherent : s.busy = true → ∃ q, s.current = some q ∧ q.unfinished = true
  /-- `SEQ.step` counts events of the trace and never exceeds 18 (R26). -/
  step_le : s.seq.step.toNat ≤ s.trace.length ∧ s.seq.step.toNat ≤ 18
  /-- A halted block is ready, and `OUTCOME` stays `BUS_UNAVAILABLE` (R27, R253). -/
  halted : s.halt = true → s.busy = false ∧ s.outcome = .busUnavailable
  /-- Every event of the trace is a delay or an exchange of equal length (R70). -/
  events_wf : ∀ e ∈ s.trace, eventWf e = true
  /-- `TXF` is within `TX_MAX` (R23). -/
  txf_le : s.txf.length ≤ s.cfg.limits.txMax
  /-- `RES_DATA` is within its bound (R25). -/
  data_le : s.resData.length ≤ dataBound s.cfg
  /-- The responder's memories keep their canonical form. -/
  bus_wf : s.bus.wf = true

/-- The request bytes at the head of the inputs are such as the port can carry. -/
def State.Presentable (s : State) : Prop :=
  ∀ bytes rest, (s.inputs = .call bytes :: rest ∨ s.inputs = .present bytes :: rest) →
    (∃ i extra, decodeRequest s.cfg bytes = .ok (i, extra)) ∨
    (∃ b, decodeRequest s.cfg bytes = .error (.badSelector b))

end Sys2Proof.Machine
end

