-- ==== Sys2Proof/Certificates/Slice0/Obligations.lean ====
section
/-! DEFINITION. The statements about the machine, from the numbered rules of spec/. -/

open Sys2Proof Sys2Proof.Machine

/-! ### Encodings -/

/-- R11: the four conversions byte by byte and their round trips. -/
def Obligations.LittleEndianConversions : Prop :=
  (∀ v : Word, (le32 v).map BitVec.toNat =
    [v.toNat % 256, v.toNat / 256 % 256, v.toNat / 65536 % 256, v.toNat / 16777216]) ∧
  (∀ b0 b1 b2 b3 : Byte, (de32 [b0, b1, b2, b3]).toNat =
    b0.toNat + 256 * b1.toNat + 65536 * b2.toNat + 16777216 * b3.toNat) ∧
  (∀ v : BitVec 16, (le16 v).map BitVec.toNat = [v.toNat % 256, v.toNat / 256]) ∧
  (∀ b0 b1 : Byte, (de16 [b0, b1]).toNat = b0.toNat + 256 * b1.toNat) ∧
  (∀ v : Word, de32 (le32 v) = v) ∧ (∀ s : List Byte, s.length = 4 → le32 (de32 s) = s) ∧
  (∀ v : BitVec 16, de16 (le16 v) = v) ∧ (∀ s : List Byte, s.length = 2 → le16 (de16 s) = s)

/-- Every operation the port can carry is read back from its bytes, whatever follows them. The layout of the
port's bytes is the model's (log 5). -/
def Obligations.RequestBytesDecodeToTheirOperation : Prop :=
  ∀ (c : Config) (i : Instr) (extra : List Byte), c.wf = true → i.wf c = true →
    decodeRequest c (encode c i ++ extra) = .ok (i, extra)

/-- R120: the default selectors; and for every selector assignment that meets the constraints, a byte decodes to
an operation exactly when it is that operation's selector, `HOP_NONE` to none. -/
def Obligations.SelectorCodes : Prop :=
  (∀ p ∈ [(Selector.writeRegister, (0x01 : Byte)), (.writeRegisterOrMask, 0x02), (.writeRegisterAndMask, 0x03),
      (.readRegister, 0x04), (.readEeprom, 0x05), (.sendData, 0x06), (.readData, 0x07), (.loadRfConfig, 0x08),
      (.rfOn, 0x09), (.rfOff, 0x0A), (.selfTest, 0x10), (.getDieId, 0x11), (.getProductVersion, 0x12),
      (.getFirmwareVersion, 0x13), (.getEepromVersion, 0x14), (.setCommandIdle, 0x15),
      (.setCommandTransceive, 0x16), (.softwareReset, 0x17), (.configureIso15693, 0x18), (.transceive, 0x19),
      (.setFlags, 0x20), (.getFlags, 0x21), (.readSingleBlock, 0x22), (.writeSingleBlock, 0x23),
      (.select, 0x24), (.resetToReady, 0x25), (.lockAfi, 0x26), (.lockDsfid, 0x27), (.writeAfi, 0x28),
      (.writeDsfid, 0x29), (.getSystemInformation, 0x2A), (.getMultipleBlockSecurityStatus, 0x2B),
      (.custom, 0x2C), (.inventory, 0x2D), (.writeMultipleBlocks, 0x2E), (.customWriteSingle, 0x2F),
      (.classify, 0x30)], p.1.code Config.default.hop = p.2) ∧
  Config.default.hop.noRequest = 0x00 ∧
  (∀ c : Config, c.wf = true →
    (∀ (b : Byte) (sel : Selector), Selector.ofCode c.hop b = some sel ↔ sel.code c.hop = b) ∧
    Selector.ofCode c.hop c.hop.noRequest = none)

/-- Bus frames and bus commands determine each other, for every configuration that meets R8. -/
def Obligations.BusFramesRoundTrip : Prop :=
  ∀ c : Config, c.wf = true →
    (∀ cmd : BusCommand, decodeBusFrame c (cmd.frame c) = .ok cmd) ∧
    (∀ (f : List Byte) (cmd : BusCommand), decodeBusFrame c f = .ok cmd → cmd.frame c = f)

/-- A request frame read with the knowledge whether it carries an identifier gives back its flags byte and
its request. That a frame with a code of no standard command is read as `CUSTOM`, not as the frame of a raw
`TRANSCEIVE`, is the model's choice (DESIGN CHOICE, log 27). -/
def Obligations.RequestFramesRoundTrip : Prop :=
  ∀ (c : Config) (flags : Byte) (r : RfRequest), c.wf = true → r.wf c = true →
    decodeRfFrame c r.hasUid (r.frame c flags) = .ok (flags, r)

/-- R111: the layouts of the seven formats and their lengths, without and with an identifier of eight bytes. -/
def Obligations.RequestFrameLayouts : Prop :=
  ∀ (c : Config) (flags : Byte) (uid : Uid) (u data payload : List Byte) (blk val first count code mfg : Byte),
    u.length = 8 → (uid = none ∨ uid = some u) →
    let n := if uid = none then 0 else 8
    (∀ p ∈ [(RfRequest.resetToReady uid, c.iso.resetToReady), (.lockAfi uid, c.iso.lockAfi),
        (.lockDsfid uid, c.iso.lockDsfid), (.getSystemInformation uid, c.iso.getSystemInformation)],
      p.1.frame c flags = [flags, p.2] ++ opt uid ∧ (p.1.frame c flags).length = 2 + n) ∧
    (RfRequest.select u).frame c flags = [flags, c.iso.select] ++ u ∧
    ((RfRequest.select u).frame c flags).length = 10 ∧
    (RfRequest.readSingleBlock uid blk).frame c flags = [flags, c.iso.readSingleBlock] ++ opt uid ++ [blk] ∧
    ((RfRequest.readSingleBlock uid blk).frame c flags).length = 3 + n ∧
    (RfRequest.writeSingleBlock uid blk data).frame c flags =
      [flags, c.iso.writeSingleBlock] ++ opt uid ++ [blk] ++ data ∧
    ((RfRequest.writeSingleBlock uid blk data).frame c flags).length = 3 + n + data.length ∧
    (∀ p ∈ [(RfRequest.writeAfi uid val, c.iso.writeAfi), (.writeDsfid uid val, c.iso.writeDsfid)],
      p.1.frame c flags = [flags, p.2] ++ opt uid ++ [val] ∧ (p.1.frame c flags).length = 3 + n) ∧
    (RfRequest.getMultipleBlockSecurityStatus uid first count).frame c flags =
      [flags, c.iso.getMultipleBlockSecurityStatus] ++ opt uid ++ [first, count] ∧
    ((RfRequest.getMultipleBlockSecurityStatus uid first count).frame c flags).length = 4 + n ∧
    (RfRequest.custom code mfg uid payload).frame c flags = [flags, code, mfg] ++ opt uid ++ payload ∧
    ((RfRequest.custom code mfg uid payload).frame c flags).length = 3 + n + payload.length

/-- A few words written out from the spec's encodings, with the default parameters: bus frames (R142 to R151)
and request frames (V50 to V59). The two table words of the last line are read as the model reads them, and no
rule says so (DESIGN CHOICE, log 8): rows in the order HOST, BUS, RF, CUSTOM, absent operand bytes zero. So is
the frame with code 0xA0 read as `CUSTOM` by the model's choice (DESIGN CHOICE, log 27). -/
def Obligations.SpecWordsDecode : Prop :=
  decodeBusFrame Config.default [0x00, 0x00, 0x78, 0x56, 0x34, 0x12] = .ok (.writeRegister 0x00 0x12345678) ∧
  decodeBusFrame Config.default [0x01, 0x00, 0x03, 0x00, 0x00, 0x00] = .ok (.writeRegisterOrMask 0 3) ∧
  decodeBusFrame Config.default [0x04, 0x1D] = .ok (.readRegister 0x1D) ∧
  decodeBusFrame Config.default [0x07, 0x10, 0x02] = .ok (.readEeprom 0x10 2) ∧
  decodeBusFrame Config.default [0x09, 0x00, 0x01, 0x20, 0x05] = .ok (.sendData 0 [0x01, 0x20, 0x05]) ∧
  decodeBusFrame Config.default [0x11, 0x0D, 0x8D] = .ok (.loadRfConfig 0x0D 0x8D) ∧
  decodeBusFrame Config.default [0xFF, 0xFF] = .error (.unknownOpcode 0xFF) ∧
  decodeRfFrame Config.default false [0x01, 0x20, 0x05] = .ok (0x01, .readSingleBlock none 0x05) ∧
  decodeRfFrame Config.default true [0x01, 0x29, 0x11, 0x22, 0x33, 0x44, 0x55, 0x66, 0x77, 0x88, 0x5A] =
    .ok (0x01, .writeDsfid (some [0x11, 0x22, 0x33, 0x44, 0x55, 0x66, 0x77, 0x88]) 0x5A) ∧
  decodeRfFrame Config.default false [0x01, 0xA0, 0x07, 0xAA, 0xBB] =
    .ok (0x01, .custom 0xA0 0x07 none [0xAA, 0xBB]) ∧
  decodeTableWord 8 0x10 = some .selfTest ∧ decodeTableWord 8 0x2C = some (.getMultipleBlockSecurityStatus 0 0 none)

/-! ### The request port -/

/-- A request presented while the block is busy is not taken and has no effect (R262). -/
def Obligations.BusyPortTakesNothing : Prop :=
  ∀ s : State, s.busy = true →
    (∀ i, exec i s = .next s ∧ accept i s = .next s) ∧
    (∀ bytes rest, (s.inputs = .call bytes :: rest ∨ s.inputs = .present bytes :: rest) →
      step s = .next { s with inputs := rest })

/-- Acceptance of an operation that is not refused and has events: `WARN` and `TXF` as the operation sets
them, selector and operands latched, `SEQ` = (OP, 0), the whole sequence to come, nothing else (R22, R262). -/
def Obligations.AcceptanceLatchesAndStarts : Prop :=
  ∀ (i : Instr) (s : State) (w : Bool) (f : List Byte) (q : Sequence),
    s.Ready → planOf i s = .go w f q → q.unfinished = true →
    ∃ t, accept i s = .next t ∧ t.warn = w ∧ t.txf = f ∧ t.latches.op = i.selector.code s.cfg.hop ∧
      t.latches.instr i.selector = i ∧ t.seq.op = some i.selector ∧ t.seq.step = 0 ∧ t.busy = true ∧
      t.current = some q ∧ t.outcome = s.outcome ∧ ∀ r : BlockReg, r.same s t

/-- A halted block refuses every request with reason `HALTED`, `OUTCOME` staying as it is, without bus
activity (R253, R256, R259). That `WARN` and the latches change is read from R262 (DEDUCED, log 23); that an
unlisted selector latches `OP` alone is the model's choice (DESIGN CHOICE, log 24). -/
def Obligations.HaltedBlockRefusesEverything : Prop :=
  ∀ s : State, s.busy = false → s.halt = true →
    (∀ i, exec i s = .next { s with
        warn := false, latches := s.latches.latch s.cfg.hop i, txf := [], resReason := .halted, seq := SeqReg.ready } ∧
      accept i s = exec i s) ∧
    (∀ b ops rest, Selector.ofCode s.cfg.hop b = none →
      (s.inputs = .call (b :: ops) :: rest ∨ s.inputs = .present (b :: ops) :: rest) →
      step s = .next { s with
        inputs := rest, warn := false, latches := { s.latches with op := b }, txf := [],
        resReason := .halted, seq := SeqReg.ready })

/-- A selector that is not in the table, `HOP_NONE` among them, and the three stubs, are refused without a trace
event (R122, R256). That acceptance clears `WARN` and `TXF` is R262 and R23; that a selector which names no
operation latches `OP`, and nothing else, is the model's choice (DESIGN CHOICE, log 24). -/
def Obligations.UnlistedSelectorsAndStubsAreRefused : Prop :=
  ∀ s : State, s.Ready →
    (∀ b ops rest, Selector.ofCode s.cfg.hop b = none →
      (s.inputs = .call (b :: ops) :: rest ∨ s.inputs = .present (b :: ops) :: rest) →
      step s = .next { s with
        inputs := rest, warn := false, latches := { s.latches with op := b }, txf := [],
        resReason := .badSelector, outcome := .refused, seq := SeqReg.ready }) ∧
    Selector.ofCode s.cfg.hop s.cfg.hop.noRequest = none ∧
    exec .inventory s = .next (s.afterRefusal .inventory .unimplemented) ∧
    exec .writeMultipleBlocks s = .next (s.afterRefusal .writeMultipleBlocks .unimplemented) ∧
    exec .customWriteSingle s = .next (s.afterRefusal .customWriteSingle .unimplemented)

/-- R256: a refusal writes its reason and, unless the reason is `HALTED`, the outcome, before any event, and
nothing but a refusal writes `RES_REASON`; the closed list of reasons, their codes and when each is raised. -/
def Obligations.RefusalReasons : Prop :=
  (∀ (s : State) (i : Instr), s.Ready →
    (∀ r, refusalOf s i = some r →
      exec i s = .next (s.afterRefusal i r) ∧ accept i s = .next (s.afterRefusal i r)) ∧
    (refusalOf s i = none → ∀ t, exec i s = .next t → t.resReason = s.resReason ∧ t.outcome ≠ .refused)) ∧
  (∀ (s : State) (i : Instr), s.busy = false → s.halt = true →
    ∃ t, exec i s = .next t ∧ t.resReason = .halted ∧ t.outcome = s.outcome ∧ t.trace = s.trace) ∧
  (∀ (s : State) (b : Byte) (ops : List Byte) (rest : List HostInput), s.Ready → Selector.ofCode s.cfg.hop b = none →
    s.inputs = .call (b :: ops) :: rest →
    ∃ t, step s = .next t ∧ t.resReason = .badSelector ∧ t.outcome = .refused ∧ t.trace = s.trace) ∧
  [Reason.none, .halted, .badSelector, .unimplemented, .unknownRegister, .badValidBits, .badLength,
    .missingUid].map Reason.code = [0, 1, 2, 3, 4, 5, 6, 7] ∧
  State.reset.resReason = .none

/-- When the bytes at the port decode to an operation, the step is `exec` of it on the state with the request
taken; a request not waited for is accepted instead. -/
def Obligations.StepRunsTheDecodedRequest : Prop :=
  ∀ (s : State) (bytes : List Byte) (rest : List HostInput) (i : Instr) (extra : List Byte),
    s.busy = false → decodeRequest s.cfg bytes = .ok (i, extra) →
    (s.inputs = .call bytes :: rest → step s = exec i { s with inputs := rest }) ∧
    (s.inputs = .present bytes :: rest → step s = accept i { s with inputs := rest })

/-- Every operation on a block that is not busy ends in a next state, ready, at most 18 events later (R26). -/
def Obligations.EveryOperationEndsReadyWithinEighteenEvents : Prop :=
  ∀ (i : Instr) (s : State), s.busy = false →
    ∃ t, exec i s = .next t ∧ t.busy = false ∧ t.seq = SeqReg.ready ∧
      ∃ es : List Event, t.trace = s.trace ++ es ∧ es.length ≤ 18

/-! ### The Command Codec -/

/-- R142, R143, R144: an unknown register is refused; otherwise one frame of six bytes, `Delay(T_CMD)`, and
`OUTCOME <- OK`; and the intended effect on the register where the reference responder answers. -/
def Obligations.RegisterWritesSendOneFrame : Prop :=
  ∀ (s : State) (a : Byte) (v : Word) (i : Instr) (op : Byte) (effect : Word → Word), s.Ready →
    (i = .writeRegister a v ∧ op = s.cfg.opc.writeRegister ∧ effect = (fun _ => v) ∨
     i = .writeRegisterOrMask a v ∧ op = s.cfg.opc.writeRegisterOrMask ∧ effect = (fun x => x ||| v) ∨
     i = .writeRegisterAndMask a v ∧ op = s.cfg.opc.writeRegisterAndMask ∧ effect = (fun x => x &&& v)) →
    (s.cfg.chip.known a = false → exec i s = .next (s.afterRefusal i .unknownRegister)) ∧
    (s.cfg.chip.known a = true →
      (∀ d, let es := [Event.xfer ([op, a] ++ le32 v) d, .delay s.cfg.time.tCmd]
        RunsTo i s false es (s.afterOk i es)) ∧
      (∀ chip, s.cfg.wf = true → s.bus = .responder chip none → chip.pending = [] → chip.reg.wf = true →
        ∃ t chip', exec i s = .next t ∧ t.bus = .responder chip' none ∧
          chip'.readReg a = effect (chip.readReg a)))

/-- R145. -/
def Obligations.ReadRegisterDecodesItsReply : Prop :=
  ∀ (s : State) (a : Byte), s.Ready → s.cfg.wf = true →
    (s.cfg.chip.known a = false → exec (.readRegister a) s = .next (s.afterRefusal (.readRegister a) .unknownRegister)) ∧
    (s.cfg.chip.known a = true → ∀ d r,
      let es := [Event.xfer [s.cfg.opc.readRegister, a] d, .delay s.cfg.time.tCmd,
        .xfer (rep s.cfg.bytes.probeByte 4) r]
      RunsTo (.readRegister a) s false es
        (fun bus => { s.afterOk (.readRegister a) es bus with resValue := de32 r }))

/-- R146: no check on the range; no probe when the length is 0. -/
def Obligations.ReadEepromFetchesItsLength : Prop :=
  ∀ (s : State) (a l : Byte) (d r : List Byte), s.Ready → r.length = l.toNat →
    let es := [Event.xfer [s.cfg.opc.readEeprom, a, l] d, .delay s.cfg.time.tCmd] ++
      (if l = 0 then [] else [.xfer (rep s.cfg.bytes.probeByte l.toNat) r])
    RunsTo (.readEeprom a l) s false es (fun bus => { s.afterOk (.readEeprom a l) es bus with resData := r })

/-- R147: the valid-bits check comes before the length check. -/
def Obligations.SendDataChecksAndForwards : Prop :=
  ∀ (s : State) (vb : Byte) (payload : List Byte), s.Ready →
    let i := Instr.sendData vb payload
    (s.cfg.limits.validBitsMax < vb.toNat → exec i s = .next (s.afterRefusal i .badValidBits)) ∧
    (vb.toNat ≤ s.cfg.limits.validBitsMax → (payload = [] ∨ s.cfg.limits.txMax < payload.length) →
      exec i s = .next (s.afterRefusal i .badLength)) ∧
    (vb.toNat ≤ s.cfg.limits.validBitsMax → payload ≠ [] → payload.length ≤ s.cfg.limits.txMax → ∀ d,
      let es := [Event.xfer ([s.cfg.opc.sendData, vb] ++ payload) d, .delay s.cfg.time.tCmd]
      RunsTo i s false es (s.afterOk i es))

/-- R148: the length is not in the frame; no probe when it is 0. -/
def Obligations.ReadDataFetchesItsLength : Prop :=
  ∀ (s : State) (len : BitVec 9), s.Ready →
    let i := Instr.readData len
    (s.cfg.limits.rxMax < len.toNat → exec i s = .next (s.afterRefusal i .badLength)) ∧
    (len.toNat ≤ s.cfg.limits.rxMax → ∀ d r, r.length = len.toNat →
      let es := [Event.xfer [s.cfg.opc.readData, s.cfg.bytes.readDataParam] d, .delay s.cfg.time.tCmd] ++
        (if len = 0 then [] else [.xfer (rep s.cfg.bytes.probeByte len.toNat) r])
      RunsTo i s false es (fun bus => { s.afterOk i es bus with resData := r }))

/-- R149, R150, R151. -/
def Obligations.RfCommandsSendTheirParameters : Prop :=
  ∀ (s : State) (tx rx mode : Byte) (d : List Byte), s.Ready →
    (let es := [Event.xfer [s.cfg.opc.loadRfConfig, tx, rx] d, .delay s.cfg.time.tCmd]
     RunsTo (.loadRfConfig tx rx) s false es (s.afterOk (.loadRfConfig tx rx) es)) ∧
    (let es := [Event.xfer [s.cfg.opc.rfOn, mode] d, .delay s.cfg.time.tCmd]
     RunsTo (.rfOn mode) s false es (s.afterOk (.rfOn mode) es)) ∧
    (let es := [Event.xfer [s.cfg.opc.rfOff, s.cfg.bytes.rfOffParam] d, .delay s.cfg.time.tCmd]
     RunsTo .rfOff s false es (s.afterOk .rfOff es))

/-! ### Device Control -/

/-- R171: four reads in the order of the rule for the self test, one for each single query. -/
def Obligations.IdentityQueriesReadTheirRegions : Prop :=
  ∀ (s : State) (d0 d1 d2 d3 r0 r1 r2 r3 : List Byte), s.Ready →
    r0.length = s.cfg.chip.dieIdLen.toNat → r1.length = s.cfg.chip.versionLen.toNat →
    r2.length = s.cfg.chip.versionLen.toNat → r3.length = s.cfg.chip.versionLen.toNat →
    let region := fun a l d r => replyEvents s.cfg (.readEeprom a l) d r
    let die := region s.cfg.chip.eeDieId s.cfg.chip.dieIdLen d0 r0
    let product := region s.cfg.chip.eeProductVersion s.cfg.chip.versionLen d1 r1
    let firmware := region s.cfg.chip.eeFirmwareVersion s.cfg.chip.versionLen d2 r2
    let eeprom := region s.cfg.chip.eeEepromVersion s.cfg.chip.versionLen d3 r3
    let reads := fun i es r => RunsTo i s false es (fun bus => { s.afterOk i es bus with resData := r })
    reads .selfTest (die ++ product ++ firmware ++ eeprom) (r0 ++ r1 ++ r2 ++ r3) ∧
    reads .getDieId die r0 ∧ reads .getProductVersion product r1 ∧
    reads .getFirmwareVersion firmware r2 ∧ reads .getEepromVersion eeprom r3

/-- R172, R173: IDLE by one AND-mask write, TRANSCEIVE by that and one OR-mask write; and the intended effect
where the reference responder answers: the command field ends at IDLE, at TRANSCEIVE, whatever it held, and the
other bits of the register are unchanged (R42, R92). -/
def Obligations.CommandFieldIsSetByMasks : Prop :=
  (∀ (s : State) (d0 d1 : List Byte), s.Ready →
    let sys := s.cfg.chip.regSystemConfig
    let clear := [Event.xfer ([s.cfg.opc.writeRegisterAndMask, sys] ++ le32 s.cfg.chip.maskCmdClear) d0,
      .delay s.cfg.time.tCmd]
    let set := [Event.xfer ([s.cfg.opc.writeRegisterOrMask, sys] ++ le32 s.cfg.chip.maskCmdTransceive) d1,
      .delay s.cfg.time.tCmd]
    RunsTo .setCommandIdle s false clear (s.afterOk .setCommandIdle clear) ∧
    RunsTo .setCommandTransceive s false (clear ++ set) (s.afterOk .setCommandTransceive (clear ++ set))) ∧
  (∀ (s : State) (chip : Responder), s.Ready → s.cfg.wf = true → s.bus = .responder chip none →
    chip.pending = [] → chip.reg.wf = true →
    let sys := s.cfg.chip.regSystemConfig
    let mask := fieldMask s.cfg.chip.cmdFieldLo s.cfg.chip.cmdFieldBits
    ∀ p ∈ [(Instr.setCommandIdle, s.cfg.chip.cmdIdle), (.setCommandTransceive, s.cfg.chip.cmdTransceive)],
      ∃ t chip', exec p.1 s = .next t ∧ t.bus = .responder chip' none ∧
        cmdOf s.cfg (chip'.readReg sys) = p.2 ∧
        chip'.readReg sys &&& ~~~ mask = chip.readReg sys &&& ~~~ mask)

/-- R126: the four identity queries and `SET_COMMAND_IDLE` do what the operation they expand into does, the
latches apart. Both runs begin in one state, so both are against the same bus: the same scripted answers, the
same free answers after them (R71; DESIGN CHOICE, log 3). -/
def Obligations.PseudoOperationsExpand : Prop :=
  ∀ s : State, s.busy = false → s.cfg.wf = true →
    ∀ p ∈ [(Instr.getDieId, Instr.readEeprom s.cfg.chip.eeDieId s.cfg.chip.dieIdLen),
      (.getProductVersion, .readEeprom s.cfg.chip.eeProductVersion s.cfg.chip.versionLen),
      (.getFirmwareVersion, .readEeprom s.cfg.chip.eeFirmwareVersion s.cfg.chip.versionLen),
      (.getEepromVersion, .readEeprom s.cfg.chip.eeEepromVersion s.cfg.chip.versionLen),
      (.setCommandIdle, .writeRegisterAndMask s.cfg.chip.regSystemConfig s.cfg.chip.maskCmdClear)],
      ∃ t u, exec p.1 s = .next t ∧ exec p.2 s = .next u ∧ { t with latches := u.latches } = u

/-- R174, R175: the two-phase reset, and the configuration that begins with it. -/
def Obligations.ResetAndConfigureSequences : Prop :=
  ∀ (s : State) (d0 d1 d2 d3 d4 : List Byte), s.Ready →
    let sys := s.cfg.chip.regSystemConfig
    let reset := [Event.xfer ([s.cfg.opc.writeRegisterOrMask, sys] ++ le32 s.cfg.chip.maskResetSet) d0,
      .delay s.cfg.time.tCmd, .delay s.cfg.time.tReset,
      .xfer ([s.cfg.opc.writeRegisterAndMask, sys] ++ le32 s.cfg.chip.maskResetClear) d1,
      .delay s.cfg.time.tCmd, .delay s.cfg.time.tReset]
    let configure := reset ++
      [.xfer [s.cfg.opc.loadRfConfig, s.cfg.bytes.rfCfgTx, s.cfg.bytes.rfCfgRx] d2, .delay s.cfg.time.tCmd,
       .xfer [s.cfg.opc.rfOn, s.cfg.bytes.rfOnStandard] d3, .delay s.cfg.time.tCmd,
       .xfer ([s.cfg.opc.writeRegisterAndMask, sys] ++ le32 s.cfg.chip.maskCmdClear) d4, .delay s.cfg.time.tCmd]
    RunsTo .softwareReset s false reset (s.afterOk .softwareReset reset) ∧
    RunsTo .configureIso15693 s false configure (s.afterOk .configureIso15693 configure)

/-- R180: the eight-step sequence on each of its paths, for every reply. `RES_CODE_VALID` = 0 on a failed
precondition is read from decision D20, which names R180 (DEDUCED, log 26). -/
def Obligations.TransceiveSequencePaths : Prop :=
  ∀ (s : State) (frame : List Byte), s.Ready → s.cfg.wf = true →
    let i := Instr.transceive frame
    ((frame = [] ∨ s.cfg.limits.txMax < frame.length) → exec i s = .next (s.afterRefusal i .badLength)) ∧
    (frame ≠ [] → frame.length ≤ s.cfg.limits.txMax → ∀ d0 d1 d2 d3 d4 d5 d6 rf rx r : List Byte,
      rf.length = 4 → rx.length = 4 →
      let c := s.cfg
      (tstateOf c (de32 rf) = .waitTransmit → rxLenOf c (de32 rx) = r.length → r.length ≤ c.limits.rxMax →
        let es := transceiveHead c d0 d1 d2 rf ++ transceiveMiddle c frame d3 d4 rx ++ transceiveTail c d5 r d6
        RunsTo i s false es (fun bus => { s.afterOk i es bus with
          resFlags := r.headD c.bytes.noAnswerFlags, resData := r.tail })) ∧
      (tstateOf c (de32 rf) ≠ .waitTransmit →
        let es := transceiveHead c d0 d1 d2 rf ++ idleEvents c d6
        RunsTo i s false es (fun bus => { s.afterOk i es bus with
          resFlags := c.bytes.noAnswerFlags, resData := [],
          outcome := .statePreconditionFailed, resCodeValid := false })) ∧
      (tstateOf c (de32 rf) = .waitTransmit → c.limits.rxMax < rxLenOf c (de32 rx) →
        let es := transceiveHead c d0 d1 d2 rf ++ transceiveMiddle c frame d3 d4 rx ++ idleEvents c d6
        RunsTo i s false es (fun bus => { s.afterOk i es bus with
          resFlags := c.bytes.noAnswerFlags, resData := [], outcome := .rxLengthFault })))

/-- R181: every path that does not end in a bus failure releases the command field last; exactly one send and
one read where the exchange ran, no send where the precondition failed; the block stays ready. -/
def Obligations.TransceiveAlwaysReleasesToIdle : Prop :=
  ∀ (i : Instr) (s t : State) (frame : List Byte), s.Ready → s.cfg.wf = true →
    rfFrameOf s i = some frame → refusalOf s i = none → exec i s = .next t → t.halt = false →
    let cmds := commandsOf s.cfg (newEvents s t)
    cmds.getLast? = some (.writeRegisterAndMask s.cfg.chip.regSystemConfig s.cfg.chip.maskCmdClear) ∧
    (t.outcome = .statePreconditionFailed → cmds.countP isSend = 0) ∧
    (t.outcome ≠ .statePreconditionFailed → cmds.countP isSend = 1 ∧
      ∀ p, cmds.find? isSend = some p → p = .sendData s.cfg.bytes.sendAllBits frame) ∧
    (t.outcome ≠ .statePreconditionFailed → t.outcome ≠ .rxLengthFault → cmds.countP isRead = 1) ∧
    t.busy = false

/-! ### The ISO-15693 Frame Builder and classification -/

/-- R200, R201: no bus activity. -/
def Obligations.FlagsRegisterOperations : Prop :=
  ∀ (s : State) (f : Byte), s.Ready →
    exec (.setFlags f) s = .next { s with
      warn := false, latches := s.latches.latch s.cfg.hop (.setFlags f), txf := [], outcome := .ok, seq := SeqReg.ready,
      flags := f } ∧
    exec .getFlags s = .next { s with
      warn := false, latches := s.latches.latch s.cfg.hop .getFlags, txf := [], outcome := .ok, seq := SeqReg.ready,
      resFlagsOut := s.flags }

/-- R202 and the rules of the framed commands (READ_SINGLE_BLOCK, WRITE_SINGLE_BLOCK, SELECT, RESET_TO_READY,
LOCK_AFI, LOCK_DSFID, WRITE_AFI, WRITE_DSFID, GET_SYSTEM_INFORMATION, GET_MULTIPLE_BLOCK_SECURITY_STATUS,
CUSTOM): the frame built of `FLAGS` as it stands, too long a frame refused, the transceive sequence on it, the
result classified, on each of the three paths. -/
def Obligations.FramedCommandsRunAndClassify : Prop :=
  (∀ (i : Instr) (req : RfRequest) (s : State), rfRequestOf i = some req → s.Ready → s.cfg.wf = true →
    let c := s.cfg
    let frame := req.frame c s.flags
    let w := malformedOf c i
    (c.limits.txMax < frame.length → exec i s = .next (s.afterRefusal i .badLength)) ∧
    (frame.length ≤ c.limits.txMax → ∀ d0 d1 d2 d3 d4 d5 d6 rf rx r : List Byte,
      rf.length = 4 → rx.length = 4 →
      (tstateOf c (de32 rf) = .waitTransmit → rxLenOf c (de32 rx) = r.length → r.length ≤ c.limits.rxMax →
        let es := transceiveHead c d0 d1 d2 rf ++ transceiveMiddle c frame d3 d4 rx ++ transceiveTail c d5 r d6
        let k := Classify c (r.headD c.bytes.noAnswerFlags) r.tail
        RunsTo i s w es (fun bus => { s.afterOk i es bus with
          warn := w, resFlags := r.headD c.bytes.noAnswerFlags, resData := r.tail,
          outcome := k.outcome, resCode := k.code, resCodeValid := k.valid })) ∧
      (tstateOf c (de32 rf) ≠ .waitTransmit →
        let es := transceiveHead c d0 d1 d2 rf ++ idleEvents c d6
        RunsTo i s w es (fun bus => { s.afterOk i es bus with
          warn := w, resFlags := c.bytes.noAnswerFlags, resData := [],
          outcome := .statePreconditionFailed, resCodeValid := false })) ∧
      (tstateOf c (de32 rf) = .waitTransmit → c.limits.rxMax < rxLenOf c (de32 rx) →
        let es := transceiveHead c d0 d1 d2 rf ++ transceiveMiddle c frame d3 d4 rx ++ idleEvents c d6
        RunsTo i s w es (fun bus => { s.afterOk i es bus with
          warn := w, resFlags := c.bytes.noAnswerFlags, resData := [],
          outcome := .rxLengthFault, resCodeValid := false })))) ∧
  (∀ (s : State) (uid : Uid), s.Ready → opt uid = [] →
    exec (.select uid) s = .next (s.afterRefusal (.select uid) .missingUid))

/-- `WARN` after a request on a block that is not busy: 1 exactly for a write-block, not refused, whose payload
is not `BLOCK_LEN` bytes (R27, R204, R252). -/
def Obligations.WarnMarksMalformedWritesOnly : Prop :=
  ∀ (i : Instr) (s t : State), s.busy = false → exec i s = .next t →
    (t.warn = true ↔ ∃ blk data uid, i = .writeSingleBlock blk data uid ∧
      data.length ≠ s.cfg.limits.blockLen ∧ s.halt = false ∧ refusalOf s i = none)

/-- R240, R241, R242: classification, its operation, and its laws. -/
def Obligations.ClassificationCases : Prop :=
  (∀ (c : Config) (d : List Byte), Classify c c.bytes.noAnswerFlags d = ⟨.noAnswer, 0, false⟩) ∧
  (∀ (c : Config) (f b : Byte) (d : List Byte), f ≠ c.bytes.noAnswerFlags → f ≠ 0 →
    Classify c f (b :: d) = ⟨.tagError, b, true⟩ ∧ Classify c f [] = ⟨.tagError, 0, false⟩) ∧
  (∀ (c : Config) (d : List Byte), c.bytes.noAnswerFlags ≠ 0 → Classify c 0 d = ⟨.ok, 0, false⟩) ∧
  (∀ (c : Config) (f : Byte) (d d' : List Byte), (Classify c f d).outcome = (Classify c f d').outcome ∧
    (d.head? = d'.head? → Classify c f d = Classify c f d')) ∧
  Config.default.bytes.noAnswerFlags = 0xFF ∧
  Classify Config.default 0x01 [0x10] = ⟨.tagError, 0x10, true⟩ ∧
  describe 0x10 = "specified block is not available" ∧
  (∀ (s : State) (f : Byte) (d : List Byte), s.Ready →
    let k := Classify s.cfg f d
    exec (.classify f d) s = .next { s with
      warn := false, latches := s.latches.latch s.cfg.hop (.classify f d), txf := [], seq := SeqReg.ready,
      outcome := k.outcome, resCode := k.code, resCodeValid := k.valid })

/-- R243: the fixed table and its fallback. -/
def Obligations.ErrorCodeDescriptions : Prop :=
  let table : List (Byte × String) :=
    [(0x01, "command not supported"), (0x02, "command not recognised (format error)"),
     (0x03, "command option not supported"), (0x0F, "error with no information given"),
     (0x10, "specified block is not available"),
     (0x11, "specified block is already locked and cannot be locked again"),
     (0x12, "specified block is locked and its content cannot be changed"),
     (0x13, "specified block was not successfully programmed"),
     (0x14, "specified block was not successfully locked")]
  (∀ p ∈ table, describe p.1 = p.2) ∧
  (∀ code : Byte, code ∉ table.map Prod.fst → describe code = "unhandled error")

/-! ### Frames: what an operation leaves alone -/

/-- R28's table, for every operation and every state: a register not in the operation's row, and the
configuration and inputs, are unchanged; a refusal writes `RES_REASON` alone of them. `RES_CODE_VALID`, which is
not in R28's row of `TRANSCEIVE`, changes there on a failed precondition alone (D20; DEDUCED, log 26). -/
def Obligations.OperationsWriteTheirRowOnly : Prop :=
  ∀ (i : Instr) (s t : State), exec i s = .next t →
    (∀ r : BlockReg, r ∉ writesOf i → r.same s t) ∧
    (s.Ready → refusalOf s i ≠ none → ∀ r : BlockReg, r ≠ .resReason → r.same s t) ∧
    (∀ frame, i = .transceive frame → t.outcome ≠ .statePreconditionFailed → t.resCodeValid = s.resCodeValid)

/-- `FLAGS` changes by the reset input and by `SET_FLAGS` alone, in every step from a state that has the
invariant (R21). -/
def Obligations.FlagsChangeBySetFlagsOrReset : Prop :=
  ∀ s t : State, s.Inv → step s = .next t → t.flags ≠ s.flags →
    (∃ rest, s.inputs = .reset :: rest) ∨
    (∃ bytes rest f extra, (s.inputs = .call bytes :: rest ∨ s.inputs = .present bytes :: rest) ∧
      decodeRequest s.cfg bytes = .ok (.setFlags f, extra) ∧ t.flags = f)

/-- Chip-side memory as the reference responder holds it: no operation changes an EEPROM byte (R46, R62), and
every register byte outside the registers the operation's commands store to reads as before. -/
def Obligations.ChipMemoryFrame : Prop :=
  ∀ (i : Instr) (s t : State) (chip : Responder) (failIn : Option Nat), s.cfg.wf = true →
    s.bus = .responder chip failIn → chip.reg.wf = true → exec i s = .next t →
    ∃ chip' failIn', t.bus = .responder chip' failIn' ∧
      (∀ x, chip'.eeprom.read x = chip.eeprom.read x) ∧
      (∀ x, (∀ a ∈ storesTo s.cfg i, x < regBase a ∨ regBase a + 4 ≤ x) → chip'.reg.read x = chip.reg.read x)

/-! ### Whole-machine rules -/

/-- R253, in both directions, for every operation that is not refused, at every transfer of its sequence: when
the bus fails the next transfer, the operation ends there, `OUTCOME` and `HALT` written, no result register
written, the events before the transfer kept; and an operation that ends halted ended so. Every operation
requested after it is refused as `HALTED` with `OUTCOME` as it is. -/
def Obligations.BusFailureHalts : Prop :=
  (∀ (i : Instr) (s : State) (w : Bool) (f : List Byte) (q : Sequence) (es : List Event) (sent : List Byte)
      (k : List Byte → Sequence) (bus : Bus), s.Ready → planOf i s = .go w f q →
    q.resume es = some (.xfer sent k) → FailsAfter s es sent bus →
    exec i s = .next (s.afterFailure i w es bus)) ∧
  (∀ (i : Instr) (s t : State), s.Ready → exec i s = .next t → t.halt = true →
    (∃ w f q es sent k bus, planOf i s = .go w f q ∧ q.resume es = some (.xfer sent k) ∧
      FailsAfter s es sent bus ∧ t = s.afterFailure i w es bus) ∧
    (∀ j, ∃ u, exec j t = .next u ∧ u.resReason = .halted ∧ u.outcome = .busUnavailable ∧ u.halt = true ∧
      u.trace = t.trace ∧ u.bus = t.bus))

/-- A halted block stays halted, without bus activity and with its outcome, until the reset input (R27, R253,
R280). -/
def Obligations.HaltEndsByResetOnly : Prop :=
  ∀ s t : State, s.busy = false → s.halt = true → step s = .next t → (∀ rest, s.inputs ≠ .reset :: rest) →
    t.halt = true ∧ t.busy = false ∧ t.outcome = s.outcome ∧ t.trace = s.trace ∧ t.bus = s.bus

/-- Every transfer of every operation is one of the ten commands, whole, or a probe (R103, R105). -/
def Obligations.TransfersAreCommandsOrProbes : Prop :=
  ∀ (i : Instr) (s t : State), s.cfg.wf = true → exec i s = .next t → wellSpoken s.cfg (newEvents s t)

/-- Every request transfer is followed at once by `Delay(T_CMD)` (R72, R285). -/
def Obligations.RequestsAreSettled : Prop :=
  ∀ (i : Instr) (s t : State), s.cfg.wf = true → exec i s = .next t → wellSettled s.cfg (newEvents s t)

/-- The bytes returned during request transfers are never examined: two runs of an operation from states that
differ in trace and bus alone, with the same probe replies, send the same bytes, wait the same delays, and end
with the same registers (R72, D36, R140). -/
def Obligations.ResultsDependOnProbeRepliesOnly : Prop :=
  ∀ (i : Instr) (s1 s2 t1 t2 : State), s1.cfg.wf = true →
    s2 = { s1 with trace := s2.trace, bus := s2.bus } →
    exec i s1 = .next t1 → exec i s2 = .next t2 → t1.halt = false → t2.halt = false →
    probeReplies s1.cfg (newEvents s1 t1) = probeReplies s1.cfg (newEvents s2 t2) →
    t2 = { t1 with trace := t2.trace, bus := t2.bus } ∧
    shapeOf (newEvents s1 t1) = shapeOf (newEvents s2 t2)

/-- The trace is one ordered sequence that no step rewrites, and no step changes the parameters (R20, R80). -/
def Obligations.TraceGrowsAndParametersStay : Prop :=
  ∀ s t : State, step s = .next t → (∃ es, t.trace = s.trace ++ es ∧ es.length ≤ 18) ∧ t.cfg = s.cfg

/-- R292: the least total delay of every operation that is not refused and not stopped by the bus, with the
default parameters. -/
def Obligations.MinimumDelays : Prop :=
  ∀ (i : Instr) (s t : State), s.cfg = Config.default → s.Ready → exec i s = .next t → t.halt = false →
    let total := totalDelay (newEvents s t)
    (refusalOf s i ≠ none → total = 0) ∧
    (refusalOf s i = none →
      (∀ frame, rfFrameOf s i = some frame →
        (t.outcome = .statePreconditionFailed → total = 20) ∧ (t.outcome = .rxLengthFault → total = 80) ∧
        (t.outcome ≠ .statePreconditionFailed → t.outcome ≠ .rxLengthFault → total = 85)) ∧
      (rfFrameOf s i = none →
        match i with
        | .selfTest => total = 20
        | .setCommandTransceive => total = 10
        | .softwareReset => total = 110
        | .configureIso15693 => total = 125
        | .setFlags _ | .getFlags | .classify _ _ => total = 0
        | _ => total = 5))

/-! ### The sequencer, one event at a time -/

/-- A request accepted and then given time for one event after another comes to what the operation run as one
step comes to, within 18 events (R26, R262). Both runs begin in one state, so both are against the same bus and
get the same free answers (R71; DESIGN CHOICE, log 3). That a request can be presented without waiting and
given time by ticks is the model's grain of the host's actions (DESIGN CHOICE, log 6); that the last event needs
no tick after it is log 11 (DESIGN CHOICE). -/
def Obligations.EventStepsRefineTheOperation : Prop :=
  ∀ (i : Instr) (s : State) (rest : List HostInput), s.cfg.wf = true → i.wf s.cfg = true → s.busy = false →
    ∃ k, k ≤ 18 ∧
      Sys2Proof.core.run (k + 1)
        { s with inputs := .present (encode s.cfg i) :: (List.replicate k HostInput.tick ++ rest) } =
      exec i { s with inputs := rest }

/-- Each event of the operation in progress adds 1 to `SEQ.step`, which stays within 18 and does not wrap (R26);
when a transfer fails, `SEQ` is (HOP_NONE, 0) and the block is halted (R26, R253). R26 says that `SEQ` becomes
(HOP_NONE, 0) when the operation completes; that it completes in the very step of its last event is the model's
choice (DESIGN CHOICE, log 11), and so is the step of one event (DESIGN CHOICE, log 6). -/
def Obligations.SequencerCountsEvents : Prop :=
  ∀ s : State, s.Inv → s.busy = true →
    ∃ t, advance s = .next t ∧
      ((∃ e, t.trace = s.trace ++ [e] ∧ t.busy = true ∧ t.seq.op = s.seq.op ∧
          t.seq.step.toNat = s.seq.step.toNat + 1 ∧ t.seq.step.toNat ≤ 18) ∨
        (∃ e, t.trace = s.trace ++ [e] ∧ t.seq = SeqReg.ready ∧ t.halt = false) ∨
        (t.trace = s.trace ∧ t.seq = SeqReg.ready ∧ t.halt = true ∧ t.outcome = .busUnavailable))

/-- Every step keeps the invariant, from every state that has it. Its clause that a busy block has an event left
to do rests on the model's choice of when an operation completes (DESIGN CHOICE, log 11). -/
def Obligations.StepKeepsTheInvariant : Prop :=
  ∀ s t : State, s.Inv → step s = .next t → t.Inv

/-- The state after reset has the invariant. -/
def Obligations.ResetHasTheInvariant : Prop := State.reset.Inv

/-- With a request at the port that the port can carry, or none, the machine goes on: neither fault is
reached from a state that has the invariant. -/
def Obligations.MachineGoesOn : Prop :=
  ∀ s : State, s.Inv → s.Presentable → ∃ t, step s = .next t

/-! ### Reset, registers of the chip -/

/-- R280: the reset input, from any state, an operation in progress or a halted block among them: the registers
the spec gives a value take it; the trace and the chip are not touched; the block is then ready and waits; and
nothing else leaves the halted state. -/
def Obligations.ResetInput : Prop :=
  (∀ (s : State) (rest : List HostInput), s.inputs = .reset :: rest →
    ∃ t, step s = .next t ∧ t.flags = s.cfg.bytes.flagsDefault ∧ t.seq = SeqReg.ready ∧ t.busy = false ∧
      t.warn = false ∧ t.halt = false ∧ t.resCodeValid = false ∧ t.resReason = .none ∧ t.outcome = .none ∧
      t.txf = [] ∧ t.trace = s.trace ∧ t.bus = s.bus ∧ t.cfg = s.cfg ∧ t.inputs = rest ∧
      (rest = [] → step t = .next t)) ∧
  (∀ s t : State, s.busy = false → s.halt = true → step s = .next t → t.halt = false →
    ∃ rest, s.inputs = .reset :: rest)

/-- R55: the values the spec gives for reset. -/
def Obligations.ResetValues : Prop :=
  State.reset.flags = 0x01 ∧ State.reset.flags = State.reset.cfg.bytes.flagsDefault ∧
  State.reset.seq.op = none ∧ State.reset.seq.step = 0 ∧ State.reset.busy = false ∧
  State.reset.warn = false ∧ State.reset.halt = false ∧ State.reset.outcome = .none ∧
  State.reset.outcome.code = 0 ∧ State.reset.resCodeValid = false ∧ State.reset.resReason.code = 0 ∧
  State.reset.txf = []

/-- The known registers, 43 of them (R40); the transceive state and the received count as fields, every other
bit ignored (R43, R44). -/
def Obligations.ChipRegisterFields : Prop :=
  (∀ a : Byte, Config.default.chip.known a = true ↔ (a.toNat ≤ 0x29 ∨ a.toNat = 0x39)) ∧
  ((List.range 256).filter fun a => Config.default.chip.known (BitVec.ofNat 8 a)).length = 43 ∧
  [0, 1, 2, 3, 4, 5, 6, 7].map TState.ofField =
    [.idle, .waitTransmit, .transmitting, .waitReceive, .waitForData, .receiving, .loopback, .reserved] ∧
  (∀ v : Word, tstateOf Config.default v = TState.ofField (v.extractLsb 26 24)) ∧
  (∀ v : Word, rxLenOf Config.default v = (v.extractLsb 8 0).toNat)

/-! ### The reference responder -/

/-- S2: a register written and read back on the reference responder gives the value written, but for the state
bits of the RF status register. -/
def Obligations.WrittenRegisterReadsBack : Prop :=
  ∀ (s : State) (chip : Responder) (a : Byte) (v : Word), s.Ready → s.cfg.wf = true →
    s.bus = .responder chip none → chip.pending = [] → chip.reg.wf = true → s.cfg.chip.known a = true →
    ∃ t u, exec (.writeRegister a v) s = .next t ∧ exec (.readRegister a) t = .next u ∧ u.outcome = .ok ∧
      (a ≠ s.cfg.chip.regRfStatus → u.resValue = v) ∧
      (a = s.cfg.chip.regRfStatus →
        let mask := fieldMask s.cfg.chip.tstateFieldLo 3
        u.resValue &&& ~~~ mask = v &&& ~~~ mask)

/-- The whole exchange against the reference responder, for every framed command and raw transceive, every
frame and every answer of the tag: the answer arrives split into flags byte and payload and, for a framed
command, classified, and the command field is IDLE at the end (S3, S6; R92, R94, R180, R202). -/
def Obligations.TagAnswerReachesTheHost : Prop :=
  ∀ (i : Instr) (s : State) (chip : Responder) (frame : List Byte), s.Ready → s.cfg.wf = true →
    s.bus = .responder chip none → chip.pending = [] → chip.forceTstate = none → chip.reg.wf = true →
    rfFrameOf s i = some frame → refusalOf s i = none → (chip.answer frame).length ≤ s.cfg.limits.rxMax →
    ∃ t chip', exec i s = .next t ∧ t.bus = .responder chip' none ∧
      t.resFlags = (chip.answer frame).headD s.cfg.bytes.noAnswerFlags ∧ t.resData = (chip.answer frame).tail ∧
      cmdOf s.cfg (chip'.readReg s.cfg.chip.regSystemConfig) = s.cfg.chip.cmdIdle ∧
      chip'.txbuf = frame ∧
      (if i = .transceive frame then t.outcome = .ok
       else t.outcome = (Classify s.cfg t.resFlags t.resData).outcome)
end

