-- ==== Sys2Proof/Laws/PerInstr.lean ====
section
/-! SUPPORT. Two families of facts about operations as syntax, one lemma per constructor: the first byte of a
request names the operation (spec 30_encoding R120), and the latches give back what was latched (10_state
R22). -/

namespace Sys2Proof

theorem Selector.mem_all (sel : Selector) : sel ∈ Selector.all := by cases sel <;> decide

theorem Selector.map_code_all (h : HopCodes) : Selector.all.map (Selector.code h) = h.all := rfl

/-- The selectors of a configuration that meets R8 are pairwise distinct, `HOP_NONE` among them (log 18). -/
theorem Config.hop_nodup {c : Config} (h : c.wf = true) : (c.hop.noRequest :: c.hop.all).Nodup := by
  simp only [Config.wf, Bool.and_eq_true, decide_eq_true_eq] at h
  tauto

/-- With distinct selectors, a byte decodes to an operation exactly when it is that operation's selector. -/
theorem Selector.ofCode_iff {h : HopCodes} (hn : (h.noRequest :: h.all).Nodup) (b : Byte) (sel : Selector) :
    Selector.ofCode h b = some sel ↔ sel.code h = b := by
  rw [← Selector.map_code_all, List.nodup_cons] at hn
  have inj := List.inj_on_of_nodup_map hn.2
  unfold Selector.ofCode
  constructor
  · intro hs
    split at hs
    · cases hs
    · simpa using List.find?_some hs
  · rintro rfl
    rw [if_neg fun he : sel.code h = h.noRequest =>
      hn.1 (he ▸ List.mem_map_of_mem (Selector.mem_all sel))]
    cases hf : Selector.all.find? (fun s => s.code h == sel.code h) with
    | none => exact absurd (List.find?_eq_none.mp hf sel (Selector.mem_all sel)) (by simp)
    | some s => rw [inj (Selector.mem_all s) (Selector.mem_all sel) (by simpa using List.find?_some hf)]

/-- The selector of an operation names it. -/
theorem Selector.ofCode_code {h : HopCodes} (hn : (h.noRequest :: h.all).Nodup) (sel : Selector) :
    Selector.ofCode h (sel.code h) = some sel := (Selector.ofCode_iff hn _ _).mpr rfl

end Sys2Proof

namespace Sys2Proof.Laws.PortBytes

/-- The request's first byte is the selector's code, and that code names the operation's selector. -/
def Statement (i : Instr) : Prop :=
  ∀ c : Config, c.wf = true →
    (encode c i).head? = some (i.selector.code c.hop) ∧
    Selector.ofCode c.hop (i.selector.code c.hop) = some i.selector

/-- The same for every operation at once: both halves are about the selector alone. -/
theorem of_wf (i : Instr) : Statement i := fun _ h => ⟨rfl, Selector.ofCode_code (Config.hop_nodup h) _⟩

theorem writeRegister (addr : Byte) (value : Word) : Statement (.writeRegister addr value) := of_wf _
theorem writeRegisterOrMask (addr : Byte) (mask : Word) : Statement (.writeRegisterOrMask addr mask) := of_wf _
theorem writeRegisterAndMask (addr : Byte) (mask : Word) : Statement (.writeRegisterAndMask addr mask) := of_wf _
theorem readRegister (addr : Byte) : Statement (.readRegister addr) := of_wf _
theorem readEeprom (eeAddr eeLen : Byte) : Statement (.readEeprom eeAddr eeLen) := of_wf _
theorem sendData (validBits : Byte) (payload : List Byte) : Statement (.sendData validBits payload) := of_wf _
theorem readData (len : BitVec 9) : Statement (.readData len) := of_wf _
theorem loadRfConfig (txCfg rxCfg : Byte) : Statement (.loadRfConfig txCfg rxCfg) := of_wf _
theorem rfOn (mode : Byte) : Statement (.rfOn mode) := of_wf _
theorem rfOff : Statement .rfOff := of_wf _
theorem selfTest : Statement .selfTest := of_wf _
theorem getDieId : Statement .getDieId := of_wf _
theorem getProductVersion : Statement .getProductVersion := of_wf _
theorem getFirmwareVersion : Statement .getFirmwareVersion := of_wf _
theorem getEepromVersion : Statement .getEepromVersion := of_wf _
theorem setCommandIdle : Statement .setCommandIdle := of_wf _
theorem setCommandTransceive : Statement .setCommandTransceive := of_wf _
theorem softwareReset : Statement .softwareReset := of_wf _
theorem configureIso15693 : Statement .configureIso15693 := of_wf _
theorem transceive (frame : List Byte) : Statement (.transceive frame) := of_wf _
theorem setFlags (newFlags : Byte) : Statement (.setFlags newFlags) := of_wf _
theorem getFlags : Statement .getFlags := of_wf _
theorem readSingleBlock (blk : Byte) (uid : Uid) : Statement (.readSingleBlock blk uid) := of_wf _
theorem writeSingleBlock (blk : Byte) (data : List Byte) (uid : Uid) : Statement (.writeSingleBlock blk data uid) := of_wf _
theorem select (uid : Uid) : Statement (.select uid) := of_wf _
theorem resetToReady (uid : Uid) : Statement (.resetToReady uid) := of_wf _
theorem lockAfi (uid : Uid) : Statement (.lockAfi uid) := of_wf _
theorem lockDsfid (uid : Uid) : Statement (.lockDsfid uid) := of_wf _
theorem writeAfi (val : Byte) (uid : Uid) : Statement (.writeAfi val uid) := of_wf _
theorem writeDsfid (val : Byte) (uid : Uid) : Statement (.writeDsfid val uid) := of_wf _
theorem getSystemInformation (uid : Uid) : Statement (.getSystemInformation uid) := of_wf _
theorem getMultipleBlockSecurityStatus (first count : Byte) (uid : Uid) : Statement (.getMultipleBlockSecurityStatus first count uid) := of_wf _
theorem custom (code mfg : Byte) (payload : List Byte) (uid : Uid) : Statement (.custom code mfg payload uid) := of_wf _
theorem inventory : Statement .inventory := of_wf _
theorem writeMultipleBlocks : Statement .writeMultipleBlocks := of_wf _
theorem customWriteSingle : Statement .customWriteSingle := of_wf _
theorem classify (cflags : Byte) (cdata : List Byte) : Statement (.classify cflags cdata) := of_wf _

end Sys2Proof.Laws.PortBytes

namespace Sys2Proof.Laws.Latched

/-- Latching an operation and reading its operands back gives the operation. -/
def Statement (i : Instr) : Prop :=
  ∀ (h : HopCodes) (l : Machine.Latches),
    (l.latch h i).instr i.selector = i ∧ (l.latch h i).op = i.selector.code h

theorem writeRegister (addr : Byte) (value : Word) : Statement (.writeRegister addr value) := fun _ _ => ⟨rfl, rfl⟩
theorem writeRegisterOrMask (addr : Byte) (mask : Word) : Statement (.writeRegisterOrMask addr mask) := fun _ _ => ⟨rfl, rfl⟩
theorem writeRegisterAndMask (addr : Byte) (mask : Word) : Statement (.writeRegisterAndMask addr mask) := fun _ _ => ⟨rfl, rfl⟩
theorem readRegister (addr : Byte) : Statement (.readRegister addr) := fun _ _ => ⟨rfl, rfl⟩
theorem readEeprom (eeAddr eeLen : Byte) : Statement (.readEeprom eeAddr eeLen) := fun _ _ => ⟨rfl, rfl⟩
theorem sendData (validBits : Byte) (payload : List Byte) : Statement (.sendData validBits payload) := fun _ _ => ⟨rfl, rfl⟩
theorem readData (len : BitVec 9) : Statement (.readData len) := fun _ _ => ⟨rfl, rfl⟩
theorem loadRfConfig (txCfg rxCfg : Byte) : Statement (.loadRfConfig txCfg rxCfg) := fun _ _ => ⟨rfl, rfl⟩
theorem rfOn (mode : Byte) : Statement (.rfOn mode) := fun _ _ => ⟨rfl, rfl⟩
theorem rfOff : Statement .rfOff := fun _ _ => ⟨rfl, rfl⟩
theorem selfTest : Statement .selfTest := fun _ _ => ⟨rfl, rfl⟩
theorem getDieId : Statement .getDieId := fun _ _ => ⟨rfl, rfl⟩
theorem getProductVersion : Statement .getProductVersion := fun _ _ => ⟨rfl, rfl⟩
theorem getFirmwareVersion : Statement .getFirmwareVersion := fun _ _ => ⟨rfl, rfl⟩
theorem getEepromVersion : Statement .getEepromVersion := fun _ _ => ⟨rfl, rfl⟩
theorem setCommandIdle : Statement .setCommandIdle := fun _ _ => ⟨rfl, rfl⟩
theorem setCommandTransceive : Statement .setCommandTransceive := fun _ _ => ⟨rfl, rfl⟩
theorem softwareReset : Statement .softwareReset := fun _ _ => ⟨rfl, rfl⟩
theorem configureIso15693 : Statement .configureIso15693 := fun _ _ => ⟨rfl, rfl⟩
theorem transceive (frame : List Byte) : Statement (.transceive frame) := fun _ _ => ⟨rfl, rfl⟩
theorem setFlags (newFlags : Byte) : Statement (.setFlags newFlags) := fun _ _ => ⟨rfl, rfl⟩
theorem getFlags : Statement .getFlags := fun _ _ => ⟨rfl, rfl⟩
theorem readSingleBlock (blk : Byte) (uid : Uid) : Statement (.readSingleBlock blk uid) := fun _ _ => ⟨rfl, rfl⟩
theorem writeSingleBlock (blk : Byte) (data : List Byte) (uid : Uid) : Statement (.writeSingleBlock blk data uid) := fun _ _ => ⟨rfl, rfl⟩
theorem select (uid : Uid) : Statement (.select uid) := fun _ _ => ⟨rfl, rfl⟩
theorem resetToReady (uid : Uid) : Statement (.resetToReady uid) := fun _ _ => ⟨rfl, rfl⟩
theorem lockAfi (uid : Uid) : Statement (.lockAfi uid) := fun _ _ => ⟨rfl, rfl⟩
theorem lockDsfid (uid : Uid) : Statement (.lockDsfid uid) := fun _ _ => ⟨rfl, rfl⟩
theorem writeAfi (val : Byte) (uid : Uid) : Statement (.writeAfi val uid) := fun _ _ => ⟨rfl, rfl⟩
theorem writeDsfid (val : Byte) (uid : Uid) : Statement (.writeDsfid val uid) := fun _ _ => ⟨rfl, rfl⟩
theorem getSystemInformation (uid : Uid) : Statement (.getSystemInformation uid) := fun _ _ => ⟨rfl, rfl⟩
theorem getMultipleBlockSecurityStatus (first count : Byte) (uid : Uid) : Statement (.getMultipleBlockSecurityStatus first count uid) := fun _ _ => ⟨rfl, rfl⟩
theorem custom (code mfg : Byte) (payload : List Byte) (uid : Uid) : Statement (.custom code mfg payload uid) := fun _ _ => ⟨rfl, rfl⟩
theorem inventory : Statement .inventory := fun _ _ => ⟨rfl, rfl⟩
theorem writeMultipleBlocks : Statement .writeMultipleBlocks := fun _ _ => ⟨rfl, rfl⟩
theorem customWriteSingle : Statement .customWriteSingle := fun _ _ => ⟨rfl, rfl⟩
theorem classify (cflags : Byte) (cdata : List Byte) : Statement (.classify cflags cdata) := fun _ _ => ⟨rfl, rfl⟩

/-- Latching and reading back, for every operation. -/
theorem all (i : Instr) : Statement i := by
  cases i <;> exact fun _ _ => ⟨rfl, rfl⟩

end Sys2Proof.Laws.Latched
end

