-- ==== Sys2Proof/Laws/State.lean ====
section
/-! SUPPORT. One lemma per field per update of the state, each true by `rfl`, so that no proof unfolds a record
update. -/

namespace Sys2Proof.Machine.State

/-! `State.accept` -/

@[simp] theorem accept_flags (s : State) (i : Instr) : (s.accept i).flags = s.flags := rfl
@[simp] theorem accept_latches (s : State) (i : Instr) : (s.accept i).latches = s.latches.latch s.cfg.hop i := rfl
@[simp] theorem accept_txf (s : State) (i : Instr) : (s.accept i).txf = [] := rfl
@[simp] theorem accept_outcome (s : State) (i : Instr) : (s.accept i).outcome = s.outcome := rfl
@[simp] theorem accept_resFlags (s : State) (i : Instr) : (s.accept i).resFlags = s.resFlags := rfl
@[simp] theorem accept_resData (s : State) (i : Instr) : (s.accept i).resData = s.resData := rfl
@[simp] theorem accept_resValue (s : State) (i : Instr) : (s.accept i).resValue = s.resValue := rfl
@[simp] theorem accept_resCode (s : State) (i : Instr) : (s.accept i).resCode = s.resCode := rfl
@[simp] theorem accept_resCodeValid (s : State) (i : Instr) : (s.accept i).resCodeValid = s.resCodeValid := rfl
@[simp] theorem accept_resFlagsOut (s : State) (i : Instr) : (s.accept i).resFlagsOut = s.resFlagsOut := rfl
@[simp] theorem accept_resReason (s : State) (i : Instr) : (s.accept i).resReason = s.resReason := rfl
@[simp] theorem accept_seq (s : State) (i : Instr) : (s.accept i).seq = { op := some i.selector, step := 0 } := rfl
@[simp] theorem accept_warn (s : State) (i : Instr) : (s.accept i).warn = false := rfl
@[simp] theorem accept_halt (s : State) (i : Instr) : (s.accept i).halt = s.halt := rfl
@[simp] theorem accept_trace (s : State) (i : Instr) : (s.accept i).trace = s.trace := rfl
@[simp] theorem accept_cfg (s : State) (i : Instr) : (s.accept i).cfg = s.cfg := rfl
@[simp] theorem accept_inputs (s : State) (i : Instr) : (s.accept i).inputs = s.inputs := rfl
@[simp] theorem accept_bus (s : State) (i : Instr) : (s.accept i).bus = s.bus := rfl

/-! `State.acceptSelector` -/

@[simp] theorem acceptSelector_flags (s : State) (b : Byte) : (s.acceptSelector b).flags = s.flags := rfl
@[simp] theorem acceptSelector_latches (s : State) (b : Byte) : (s.acceptSelector b).latches = { s.latches with op := b } := rfl
@[simp] theorem acceptSelector_txf (s : State) (b : Byte) : (s.acceptSelector b).txf = [] := rfl
@[simp] theorem acceptSelector_outcome (s : State) (b : Byte) : (s.acceptSelector b).outcome = s.outcome := rfl
@[simp] theorem acceptSelector_resFlags (s : State) (b : Byte) : (s.acceptSelector b).resFlags = s.resFlags := rfl
@[simp] theorem acceptSelector_resData (s : State) (b : Byte) : (s.acceptSelector b).resData = s.resData := rfl
@[simp] theorem acceptSelector_resValue (s : State) (b : Byte) : (s.acceptSelector b).resValue = s.resValue := rfl
@[simp] theorem acceptSelector_resCode (s : State) (b : Byte) : (s.acceptSelector b).resCode = s.resCode := rfl
@[simp] theorem acceptSelector_resCodeValid (s : State) (b : Byte) : (s.acceptSelector b).resCodeValid = s.resCodeValid := rfl
@[simp] theorem acceptSelector_resFlagsOut (s : State) (b : Byte) : (s.acceptSelector b).resFlagsOut = s.resFlagsOut := rfl
@[simp] theorem acceptSelector_resReason (s : State) (b : Byte) : (s.acceptSelector b).resReason = s.resReason := rfl
@[simp] theorem acceptSelector_seq (s : State) (b : Byte) : (s.acceptSelector b).seq = s.seq := rfl
@[simp] theorem acceptSelector_warn (s : State) (b : Byte) : (s.acceptSelector b).warn = false := rfl
@[simp] theorem acceptSelector_halt (s : State) (b : Byte) : (s.acceptSelector b).halt = s.halt := rfl
@[simp] theorem acceptSelector_trace (s : State) (b : Byte) : (s.acceptSelector b).trace = s.trace := rfl
@[simp] theorem acceptSelector_cfg (s : State) (b : Byte) : (s.acceptSelector b).cfg = s.cfg := rfl
@[simp] theorem acceptSelector_inputs (s : State) (b : Byte) : (s.acceptSelector b).inputs = s.inputs := rfl
@[simp] theorem acceptSelector_bus (s : State) (b : Byte) : (s.acceptSelector b).bus = s.bus := rfl

/-! `State.refuse` -/

@[simp] theorem refuse_flags (s : State) (r : Reason) : (s.refuse r).flags = s.flags := rfl
@[simp] theorem refuse_latches (s : State) (r : Reason) : (s.refuse r).latches = s.latches := rfl
@[simp] theorem refuse_txf (s : State) (r : Reason) : (s.refuse r).txf = [] := rfl
@[simp] theorem refuse_outcome (s : State) (r : Reason) : (s.refuse r).outcome = if r = .halted then s.outcome else .refused := rfl
@[simp] theorem refuse_resFlags (s : State) (r : Reason) : (s.refuse r).resFlags = s.resFlags := rfl
@[simp] theorem refuse_resData (s : State) (r : Reason) : (s.refuse r).resData = s.resData := rfl
@[simp] theorem refuse_resValue (s : State) (r : Reason) : (s.refuse r).resValue = s.resValue := rfl
@[simp] theorem refuse_resCode (s : State) (r : Reason) : (s.refuse r).resCode = s.resCode := rfl
@[simp] theorem refuse_resCodeValid (s : State) (r : Reason) : (s.refuse r).resCodeValid = s.resCodeValid := rfl
@[simp] theorem refuse_resFlagsOut (s : State) (r : Reason) : (s.refuse r).resFlagsOut = s.resFlagsOut := rfl
@[simp] theorem refuse_resReason (s : State) (r : Reason) : (s.refuse r).resReason = r := rfl
@[simp] theorem refuse_seq (s : State) (r : Reason) : (s.refuse r).seq = SeqReg.ready := rfl
@[simp] theorem refuse_warn (s : State) (r : Reason) : (s.refuse r).warn = s.warn := rfl
@[simp] theorem refuse_halt (s : State) (r : Reason) : (s.refuse r).halt = s.halt := rfl
@[simp] theorem refuse_trace (s : State) (r : Reason) : (s.refuse r).trace = s.trace := rfl
@[simp] theorem refuse_cfg (s : State) (r : Reason) : (s.refuse r).cfg = s.cfg := rfl
@[simp] theorem refuse_inputs (s : State) (r : Reason) : (s.refuse r).inputs = s.inputs := rfl
@[simp] theorem refuse_bus (s : State) (r : Reason) : (s.refuse r).bus = s.bus := rfl

/-! `State.haltBus` -/

@[simp] theorem haltBus_flags (s : State) : (s.haltBus).flags = s.flags := rfl
@[simp] theorem haltBus_latches (s : State) : (s.haltBus).latches = s.latches := rfl
@[simp] theorem haltBus_txf (s : State) : (s.haltBus).txf = [] := rfl
@[simp] theorem haltBus_outcome (s : State) : (s.haltBus).outcome = .busUnavailable := rfl
@[simp] theorem haltBus_resFlags (s : State) : (s.haltBus).resFlags = s.resFlags := rfl
@[simp] theorem haltBus_resData (s : State) : (s.haltBus).resData = s.resData := rfl
@[simp] theorem haltBus_resValue (s : State) : (s.haltBus).resValue = s.resValue := rfl
@[simp] theorem haltBus_resCode (s : State) : (s.haltBus).resCode = s.resCode := rfl
@[simp] theorem haltBus_resCodeValid (s : State) : (s.haltBus).resCodeValid = s.resCodeValid := rfl
@[simp] theorem haltBus_resFlagsOut (s : State) : (s.haltBus).resFlagsOut = s.resFlagsOut := rfl
@[simp] theorem haltBus_resReason (s : State) : (s.haltBus).resReason = s.resReason := rfl
@[simp] theorem haltBus_seq (s : State) : (s.haltBus).seq = SeqReg.ready := rfl
@[simp] theorem haltBus_warn (s : State) : (s.haltBus).warn = s.warn := rfl
@[simp] theorem haltBus_halt (s : State) : (s.haltBus).halt = true := rfl
@[simp] theorem haltBus_trace (s : State) : (s.haltBus).trace = s.trace := rfl
@[simp] theorem haltBus_cfg (s : State) : (s.haltBus).cfg = s.cfg := rfl
@[simp] theorem haltBus_inputs (s : State) : (s.haltBus).inputs = s.inputs := rfl
@[simp] theorem haltBus_bus (s : State) : (s.haltBus).bus = s.bus := rfl

/-! `State.event` -/

@[simp] theorem event_flags (s : State) (e : Event) : (s.event e).flags = s.flags := rfl
@[simp] theorem event_latches (s : State) (e : Event) : (s.event e).latches = s.latches := rfl
@[simp] theorem event_txf (s : State) (e : Event) : (s.event e).txf = s.txf := rfl
@[simp] theorem event_outcome (s : State) (e : Event) : (s.event e).outcome = s.outcome := rfl
@[simp] theorem event_resFlags (s : State) (e : Event) : (s.event e).resFlags = s.resFlags := rfl
@[simp] theorem event_resData (s : State) (e : Event) : (s.event e).resData = s.resData := rfl
@[simp] theorem event_resValue (s : State) (e : Event) : (s.event e).resValue = s.resValue := rfl
@[simp] theorem event_resCode (s : State) (e : Event) : (s.event e).resCode = s.resCode := rfl
@[simp] theorem event_resCodeValid (s : State) (e : Event) : (s.event e).resCodeValid = s.resCodeValid := rfl
@[simp] theorem event_resFlagsOut (s : State) (e : Event) : (s.event e).resFlagsOut = s.resFlagsOut := rfl
@[simp] theorem event_resReason (s : State) (e : Event) : (s.event e).resReason = s.resReason := rfl
@[simp] theorem event_seq (s : State) (e : Event) : (s.event e).seq = { s.seq with step := s.seq.step + 1 } := rfl
@[simp] theorem event_warn (s : State) (e : Event) : (s.event e).warn = s.warn := rfl
@[simp] theorem event_halt (s : State) (e : Event) : (s.event e).halt = s.halt := rfl
@[simp] theorem event_trace (s : State) (e : Event) : (s.event e).trace = s.trace ++ [e] := rfl
@[simp] theorem event_cfg (s : State) (e : Event) : (s.event e).cfg = s.cfg := rfl
@[simp] theorem event_inputs (s : State) (e : Event) : (s.event e).inputs = s.inputs := rfl
@[simp] theorem event_bus (s : State) (e : Event) : (s.event e).bus = s.bus := rfl

/-! `State.writeExchange` -/

@[simp] theorem writeExchange_flags (s : State) (e : Exchange) : (s.writeExchange e).flags = s.flags := rfl
@[simp] theorem writeExchange_latches (s : State) (e : Exchange) : (s.writeExchange e).latches = s.latches := rfl
@[simp] theorem writeExchange_txf (s : State) (e : Exchange) : (s.writeExchange e).txf = s.txf := rfl
@[simp] theorem writeExchange_outcome (s : State) (e : Exchange) : (s.writeExchange e).outcome = s.outcome := rfl
@[simp] theorem writeExchange_resFlags (s : State) (e : Exchange) : (s.writeExchange e).resFlags = e.flags := rfl
@[simp] theorem writeExchange_resData (s : State) (e : Exchange) : (s.writeExchange e).resData = e.data := rfl
@[simp] theorem writeExchange_resValue (s : State) (e : Exchange) : (s.writeExchange e).resValue = s.resValue := rfl
@[simp] theorem writeExchange_resCode (s : State) (e : Exchange) : (s.writeExchange e).resCode = s.resCode := rfl
@[simp] theorem writeExchange_resCodeValid (s : State) (e : Exchange) : (s.writeExchange e).resCodeValid = s.resCodeValid := rfl
@[simp] theorem writeExchange_resFlagsOut (s : State) (e : Exchange) : (s.writeExchange e).resFlagsOut = s.resFlagsOut := rfl
@[simp] theorem writeExchange_resReason (s : State) (e : Exchange) : (s.writeExchange e).resReason = s.resReason := rfl
@[simp] theorem writeExchange_seq (s : State) (e : Exchange) : (s.writeExchange e).seq = s.seq := rfl
@[simp] theorem writeExchange_warn (s : State) (e : Exchange) : (s.writeExchange e).warn = s.warn := rfl
@[simp] theorem writeExchange_halt (s : State) (e : Exchange) : (s.writeExchange e).halt = s.halt := rfl
@[simp] theorem writeExchange_trace (s : State) (e : Exchange) : (s.writeExchange e).trace = s.trace := rfl
@[simp] theorem writeExchange_cfg (s : State) (e : Exchange) : (s.writeExchange e).cfg = s.cfg := rfl
@[simp] theorem writeExchange_inputs (s : State) (e : Exchange) : (s.writeExchange e).inputs = s.inputs := rfl
@[simp] theorem writeExchange_bus (s : State) (e : Exchange) : (s.writeExchange e).bus = s.bus := rfl

/-! `State.writeClassified` -/

@[simp] theorem writeClassified_flags (s : State) (k : Classified) : (s.writeClassified k).flags = s.flags := rfl
@[simp] theorem writeClassified_latches (s : State) (k : Classified) : (s.writeClassified k).latches = s.latches := rfl
@[simp] theorem writeClassified_txf (s : State) (k : Classified) : (s.writeClassified k).txf = s.txf := rfl
@[simp] theorem writeClassified_outcome (s : State) (k : Classified) : (s.writeClassified k).outcome = k.outcome := rfl
@[simp] theorem writeClassified_resFlags (s : State) (k : Classified) : (s.writeClassified k).resFlags = s.resFlags := rfl
@[simp] theorem writeClassified_resData (s : State) (k : Classified) : (s.writeClassified k).resData = s.resData := rfl
@[simp] theorem writeClassified_resValue (s : State) (k : Classified) : (s.writeClassified k).resValue = s.resValue := rfl
@[simp] theorem writeClassified_resCode (s : State) (k : Classified) : (s.writeClassified k).resCode = k.code := rfl
@[simp] theorem writeClassified_resCodeValid (s : State) (k : Classified) : (s.writeClassified k).resCodeValid = k.valid := rfl
@[simp] theorem writeClassified_resFlagsOut (s : State) (k : Classified) : (s.writeClassified k).resFlagsOut = s.resFlagsOut := rfl
@[simp] theorem writeClassified_resReason (s : State) (k : Classified) : (s.writeClassified k).resReason = s.resReason := rfl
@[simp] theorem writeClassified_seq (s : State) (k : Classified) : (s.writeClassified k).seq = s.seq := rfl
@[simp] theorem writeClassified_warn (s : State) (k : Classified) : (s.writeClassified k).warn = s.warn := rfl
@[simp] theorem writeClassified_halt (s : State) (k : Classified) : (s.writeClassified k).halt = s.halt := rfl
@[simp] theorem writeClassified_trace (s : State) (k : Classified) : (s.writeClassified k).trace = s.trace := rfl
@[simp] theorem writeClassified_cfg (s : State) (k : Classified) : (s.writeClassified k).cfg = s.cfg := rfl
@[simp] theorem writeClassified_inputs (s : State) (k : Classified) : (s.writeClassified k).inputs = s.inputs := rfl
@[simp] theorem writeClassified_bus (s : State) (k : Classified) : (s.writeClassified k).bus = s.bus := rfl

/-! `State.finish` -/

@[simp] theorem finish_flags (s : State) (f : Finish) : (s.finish f).flags = (s.results f).flags := rfl
@[simp] theorem finish_latches (s : State) (f : Finish) : (s.finish f).latches = (s.results f).latches := rfl
@[simp] theorem finish_txf (s : State) (f : Finish) : (s.finish f).txf = [] := rfl
@[simp] theorem finish_outcome (s : State) (f : Finish) : (s.finish f).outcome = (s.results f).outcome := rfl
@[simp] theorem finish_resFlags (s : State) (f : Finish) : (s.finish f).resFlags = (s.results f).resFlags := rfl
@[simp] theorem finish_resData (s : State) (f : Finish) : (s.finish f).resData = (s.results f).resData := rfl
@[simp] theorem finish_resValue (s : State) (f : Finish) : (s.finish f).resValue = (s.results f).resValue := rfl
@[simp] theorem finish_resCode (s : State) (f : Finish) : (s.finish f).resCode = (s.results f).resCode := rfl
@[simp] theorem finish_resCodeValid (s : State) (f : Finish) : (s.finish f).resCodeValid = (s.results f).resCodeValid := rfl
@[simp] theorem finish_resFlagsOut (s : State) (f : Finish) : (s.finish f).resFlagsOut = (s.results f).resFlagsOut := rfl
@[simp] theorem finish_resReason (s : State) (f : Finish) : (s.finish f).resReason = (s.results f).resReason := rfl
@[simp] theorem finish_seq (s : State) (f : Finish) : (s.finish f).seq = SeqReg.ready := rfl
@[simp] theorem finish_warn (s : State) (f : Finish) : (s.finish f).warn = (s.results f).warn := rfl
@[simp] theorem finish_halt (s : State) (f : Finish) : (s.finish f).halt = (s.results f).halt := rfl
@[simp] theorem finish_trace (s : State) (f : Finish) : (s.finish f).trace = (s.results f).trace := rfl
@[simp] theorem finish_cfg (s : State) (f : Finish) : (s.finish f).cfg = (s.results f).cfg := rfl
@[simp] theorem finish_inputs (s : State) (f : Finish) : (s.finish f).inputs = (s.results f).inputs := rfl
@[simp] theorem finish_bus (s : State) (f : Finish) : (s.finish f).bus = (s.results f).bus := rfl

/-! What the final writes leave alone, whatever the operation. -/

@[simp] theorem results_latches (s : State) (f : Finish) : (s.results f).latches = s.latches := by
  cases f <;> simp only [results] <;> (try split) <;> rfl
@[simp] theorem results_txf (s : State) (f : Finish) : (s.results f).txf = s.txf := by
  cases f <;> simp only [results] <;> (try split) <;> rfl
@[simp] theorem results_resReason (s : State) (f : Finish) : (s.results f).resReason = s.resReason := by
  cases f <;> simp only [results] <;> (try split) <;> rfl
@[simp] theorem results_seq (s : State) (f : Finish) : (s.results f).seq = s.seq := by
  cases f <;> simp only [results] <;> (try split) <;> rfl
@[simp] theorem results_warn (s : State) (f : Finish) : (s.results f).warn = s.warn := by
  cases f <;> simp only [results] <;> (try split) <;> rfl
@[simp] theorem results_halt (s : State) (f : Finish) : (s.results f).halt = s.halt := by
  cases f <;> simp only [results] <;> (try split) <;> rfl
@[simp] theorem results_trace (s : State) (f : Finish) : (s.results f).trace = s.trace := by
  cases f <;> simp only [results] <;> (try split) <;> rfl
@[simp] theorem results_cfg (s : State) (f : Finish) : (s.results f).cfg = s.cfg := by
  cases f <;> simp only [results] <;> (try split) <;> rfl
@[simp] theorem results_inputs (s : State) (f : Finish) : (s.results f).inputs = s.inputs := by
  cases f <;> simp only [results] <;> (try split) <;> rfl
@[simp] theorem results_bus (s : State) (f : Finish) : (s.results f).bus = s.bus := by
  cases f <;> simp only [results] <;> (try split) <;> rfl

/-! `State.blockReset` -/

@[simp] theorem blockReset_flags (s : State) : (s.blockReset).flags = s.cfg.bytes.flagsDefault := rfl
@[simp] theorem blockReset_latches (s : State) : (s.blockReset).latches = State.reset.latches := rfl
@[simp] theorem blockReset_txf (s : State) : (s.blockReset).txf = [] := rfl
@[simp] theorem blockReset_outcome (s : State) : (s.blockReset).outcome = .none := rfl
@[simp] theorem blockReset_resFlags (s : State) : (s.blockReset).resFlags = State.reset.resFlags := rfl
@[simp] theorem blockReset_resData (s : State) : (s.blockReset).resData = State.reset.resData := rfl
@[simp] theorem blockReset_resValue (s : State) : (s.blockReset).resValue = State.reset.resValue := rfl
@[simp] theorem blockReset_resCode (s : State) : (s.blockReset).resCode = State.reset.resCode := rfl
@[simp] theorem blockReset_resCodeValid (s : State) : (s.blockReset).resCodeValid = false := rfl
@[simp] theorem blockReset_resFlagsOut (s : State) : (s.blockReset).resFlagsOut = State.reset.resFlagsOut := rfl
@[simp] theorem blockReset_resReason (s : State) : (s.blockReset).resReason = .none := rfl
@[simp] theorem blockReset_seq (s : State) : (s.blockReset).seq = SeqReg.ready := rfl
@[simp] theorem blockReset_warn (s : State) : (s.blockReset).warn = false := rfl
@[simp] theorem blockReset_halt (s : State) : (s.blockReset).halt = false := rfl
@[simp] theorem blockReset_trace (s : State) : (s.blockReset).trace = s.trace := rfl
@[simp] theorem blockReset_cfg (s : State) : (s.blockReset).cfg = s.cfg := rfl
@[simp] theorem blockReset_inputs (s : State) : (s.blockReset).inputs = s.inputs := rfl
@[simp] theorem blockReset_bus (s : State) : (s.blockReset).bus = s.bus := rfl

@[simp] theorem busy_ready {s : State} (h : s.seq = SeqReg.ready) : s.busy = false := by
  simp [busy, h, SeqReg.ready]

theorem busy_eq (s : State) : s.busy = s.seq.op.isSome := rfl

end Sys2Proof.Machine.State
end

