-- ==== Sys2Proof/Laws/Sequence.lean ====
section
/-! SUPPORT. What running a sequence does, said once: the two ways a run ends, the events it resumes from, and
what acceptance leads to. -/

namespace Sys2Proof.Machine

/-! ### The bus -/

theorem fitAnswer_length (drawn n : Nat) (a : List Byte) : (fitAnswer drawn n a).length = n := by
  simp [fitAnswer]; omega

/-- An answer of the right length is taken as it is. -/
theorem fitAnswer_self (drawn : Nat) (a : List Byte) : fitAnswer drawn a.length a = a := by
  simp [fitAnswer]

theorem padFF_length (n : Nat) (bs : List Byte) : (padFF n bs).length = n := by
  simp [padFF, rep]; omega

theorem Responder.transfer_length (c : Config) (r : Responder) (sent : List Byte) :
    (r.transfer c sent).1.length = sent.length := by
  unfold Responder.transfer
  split
  · split <;> simp [rep]
  · exact padFF_length _ _

/-- A transfer that does not fail returns as many bytes as were sent (R70). -/
theorem Bus.transfer_length {c : Config} {tr : List Event} {sent reply : List Byte} {b b' : Bus}
    (h : Bus.transfer c tr sent b = (some reply, b')) : reply.length = sent.length := by
  unfold Bus.transfer at h
  split at h
  · rename_i a rest drawn
    cases a with
    | none => simp at h
    | some a => simp only [Option.map_some, Prod.mk.injEq, Option.some.injEq] at h
                rw [← h.1]; exact fitAnswer_length _ _ _
  · rename_i drawn
    cases e : Config.freeAnswer drawn tr sent with
    | none => simp [e] at h
    | some a => simp only [e, Option.map_some, Prod.mk.injEq, Option.some.injEq] at h
                rw [← h.1]; exact fitAnswer_length _ _ _
  · split at h <;> simp only [Prod.mk.injEq, Option.some.injEq, reduceCtorEq, false_and] at h
    all_goals (rw [← h.1]; exact Responder.transfer_length _ _ _)

/-! ### Events answered -/

theorem busAfter_append (c : Config) (es es' tr : List Event) (b : Bus) :
    busAfter c (es ++ es') tr b = (busAfter c es tr b).bind (busAfter c es' (tr ++ es)) := by
  induction es generalizing tr b with
  | nil => simp [busAfter]
  | cons e es ih =>
    cases e with
    | delay ms => simp [busAfter, ih]
    | xfer sent reply =>
      simp only [List.cons_append, busAfter]
      split
      · simp [ih]
      · rfl

theorem answered_nil {s : State} {b : Bus} : Answered s [] b ↔ b = s.bus := by
  simp [Answered, busAfter, eq_comm]

/-! ### Resuming -/

theorem Sequence.resume_nil (q : Sequence) : q.resume [] = some q := by
  cases q <;> rfl

theorem Sequence.resume_append {q q' : Sequence} {es es' : List Event} (h : q.resume es = some q') :
    q.resume (es ++ es') = q'.resume es' := by
  induction es generalizing q with
  | nil => rw [resume_nil, Option.some.injEq] at h; rw [h, List.nil_append]
  | cons e es ih =>
    cases q with
    | done f => simp [resume] at h
    | delay ms k =>
      cases e with
      | delay ms' =>
        simp only [resume, List.cons_append] at h ⊢
        split at h
        · rw [if_pos ‹_›]; exact ih h
        · cases h
      | xfer a b => simp [resume] at h
    | xfer sent k =>
      cases e with
      | delay ms' => simp [resume] at h
      | xfer a b =>
        simp only [resume, List.cons_append] at h ⊢
        split at h
        · rw [if_pos ‹_›]; exact ih h
        · cases h

/-- A command with its reply is passed over. -/
theorem Sequence.resume_chipCommand (c : Config) (cmd : BusCommand) (d r : List Byte)
    (k : List Byte → Sequence) (es : List Event) :
    (chipCommand c cmd r.length k).resume (replyEvents c cmd d r ++ es) = (k r).resume es := by
  cases r with
  | nil => simp [chipCommand, replyEvents, commandEvents, resume]
  | cons b r => simp [chipCommand, replyEvents, commandEvents, resume]

/-- A command without a reply is passed over. -/
theorem Sequence.resume_command (c : Config) (cmd : BusCommand) (d : List Byte)
    (k : List Byte → Sequence) (es : List Event) :
    (chipCommand c cmd 0 k).resume (commandEvents c cmd d ++ es) = (k []).resume es := by
  simp [chipCommand, commandEvents, resume]

/-! ### The final writes -/

/-- The final writes do not look at the sequencer, the trace or the bus. -/
theorem State.finish_congr (s : State) (f : Finish) (q : SeqReg) :
    State.finish { s with seq := q } f = s.finish f := by
  cases f <;> simp only [finish, results, writeExchange, writeClassified]
  all_goals try split
  all_goals rfl

/-- The state after events that were answered: trace and bus moved on, the sequencer left out. -/
def State.after (s : State) (es : List Event) (bus : Bus) : State :=
  { s with trace := s.trace ++ es, bus := bus }

/-! ### The two ways a run ends -/

theorem State.transfer_some {s : State} {sent reply : List Byte} {b : Bus}
    (h : Bus.transfer s.cfg s.trace sent s.bus = (some reply, b)) :
    s.transfer sent = (some reply, State.event { s with bus := b } (.xfer sent reply)) := by
  simp [transfer, h]

theorem State.transfer_none {s : State} {sent : List Byte} {b : Bus}
    (h : Bus.transfer s.cfg s.trace sent s.bus = (none, b)) :
    s.transfer sent = (none, State.haltBus { s with bus := b }) := by
  simp [transfer, h]

/-- A run follows the events as long as they are its own and are answered. -/
theorem Sequence.run_of_resume {q q' : Sequence} {s : State} {es : List Event} {b : Bus}
    (hq : q.resume es = some q') (hb : Answered s es b) :
    q.run s = q'.run { s.after es b with seq := { s.seq with step := s.seq.step + BitVec.ofNat 5 es.length } } := by
  induction es generalizing q s with
  | nil =>
    rw [resume_nil, Option.some.injEq] at hq
    rw [answered_nil] at hb
    subst hq hb
    simp [State.after]
  | cons e es ih =>
    have step : ∀ x : BitVec 5, x + 1#5 + BitVec.ofNat 5 es.length = x + BitVec.ofNat 5 (es.length + 1) := by
      intro x; rw [BitVec.ofNat_add, BitVec.add_assoc, BitVec.add_comm 1#5]
    cases q with
    | done f => simp [resume] at hq
    | delay ms k =>
      cases e with
      | xfer a b => simp [resume] at hq
      | delay ms' =>
        simp only [resume] at hq
        split at hq
        · rename_i hms
          subst hms
          have := ih (s := s.event (.delay ms)) hq (by simpa [Answered, busAfter] using hb)
          rw [run, this]
          simp [State.after, State.event, step]
        · cases hq
    | xfer sent k =>
      cases e with
      | delay ms => simp [resume] at hq
      | xfer sent' reply =>
        simp only [resume] at hq
        split at hq
        · rename_i hs
          subst hs
          simp only [Answered, busAfter] at hb
          split at hb
          · rename_i hr
            have ht := State.transfer_some (s := s) (sent := sent) (reply := reply)
              (b := (Bus.transfer s.cfg s.trace sent s.bus).2) (by rw [← hr])
            have := ih (s := State.event { s with bus := (Bus.transfer s.cfg s.trace sent s.bus).2 }
              (.xfer sent reply)) hq (by simpa [Answered] using hb)
            rw [run, ht]
            simp only
            rw [this]
            simp [State.after, State.event, step]
          · cases hb
        · cases hq

/-- A run whose events are answered to the end makes its final writes. -/
theorem Sequence.run_of_answered {q : Sequence} {s : State} {es : List Event} {b : Bus} {f : Finish}
    (hq : q.resume es = some (.done f)) (hb : Answered s es b) : q.run s = (s.after es b).finish f := by
  rw [run_of_resume hq hb, run, State.finish_congr]

/-- A run whose next transfer fails leaves the block halted, with the events before it. -/
theorem Sequence.run_of_fails {q : Sequence} {s : State} {es : List Event} {sent : List Byte}
    {k : List Byte → Sequence} {b : Bus}
    (hq : q.resume es = some (.xfer sent k)) (hb : FailsAfter s es sent b) :
    q.run s = (s.after es b).haltBus := by
  obtain ⟨b', hb', hf⟩ := hb
  rw [run_of_resume hq hb', run]
  rw [State.transfer_none (b := b) hf]
  rfl

/-- A run ends in one of two ways: its events were answered to the end, or a transfer failed. -/
theorem Sequence.run_cases (q : Sequence) (s : State) :
    (∃ es b f, q.resume es = some (.done f) ∧ Answered s es b) ∨
    (∃ es b sent k, q.resume es = some (.xfer sent k) ∧ FailsAfter s es sent b) := by
  induction q generalizing s with
  | done f => exact .inl ⟨[], s.bus, f, rfl, answered_nil.mpr rfl⟩
  | delay ms k ih =>
    rcases ih (s.event (.delay ms)) with ⟨es, b, f, h1, h2⟩ | ⟨es, b, sent, k', h1, b', h2, h3⟩
    · exact .inl ⟨.delay ms :: es, b, f, by simpa [resume] using h1, by simpa [Answered, busAfter] using h2⟩
    · refine .inr ⟨.delay ms :: es, b, sent, k', by simpa [resume] using h1, b', ?_, ?_⟩
      · simpa [Answered, busAfter] using h2
      · simpa using h3
  | xfer sent k ih =>
    rcases ht : Bus.transfer s.cfg s.trace sent s.bus with ⟨o, b0⟩
    cases o with
    | none =>
      exact .inr ⟨[], b0, sent, k, rfl, s.bus, answered_nil.mpr rfl, by simpa using ht⟩
    | some reply =>
      rcases ih reply (State.event { s with bus := b0 } (.xfer sent reply)) with
        ⟨es, b, f, h1, h2⟩ | ⟨es, b, sent', k', h1, b', h2, h3⟩
      · exact .inl ⟨.xfer sent reply :: es, b, f, by simpa [resume] using h1,
          by simpa [Answered, busAfter, ht] using h2⟩
      · refine .inr ⟨.xfer sent reply :: es, b, sent', k', by simpa [resume] using h1, b', ?_, ?_⟩
        · simpa [Answered, busAfter, ht] using h2
        · simpa using h3

/-! ### Requests -/

/-- Every meaning is the operation's plan, performed. -/
theorem exec_eq (i : Instr) (s : State) : exec i s = .next (perform i (planOf i) s) := by
  cases i <;> rfl

/-- A plan depends on the configuration and the flags alone. -/
theorem planOf_congr (i : Instr) {s t : State} (hc : s.cfg = t.cfg) (hf : s.flags = t.flags) :
    planOf i s = planOf i t := by
  cases i <;>
    simp [planOf, planWriteRegister, planWriteRegisterOrMask, planWriteRegisterAndMask, planReadRegister,
      planReadEeprom, planSendData, planReadData, planLoadRfConfig, planRfOn, planRfOff, planSelfTest,
      planGetDieId, planGetProductVersion, planGetFirmwareVersion, planGetEepromVersion,
      planSetCommandIdle, planSetCommandTransceive, planSoftwareReset, planConfigureIso15693,
      planTransceive, planSetFlags, planGetFlags, planReadSingleBlock, planWriteSingleBlock, planSelect,
      planResetToReady, planLockAfi, planLockDsfid, planWriteAfi, planWriteDsfid,
      planGetSystemInformation, planGetMultipleBlockSecurityStatus, planCustom, planInventory,
      planWriteMultipleBlocks, planCustomWriteSingle, planClassify, framed, hc, hf]

/-- The state in which an operation's sequence begins. -/
def State.started (s : State) (i : Instr) (warn : Bool) (txf : List Byte) : State :=
  { s.accept i with warn := warn, txf := txf }

/-- A busy block takes no request. -/
theorem perform_busy {i : Instr} {plan : State → Plan} {s : State} (h : s.busy = true) :
    perform i plan s = s := by simp [perform, h]

/-- A halted block refuses every request. -/
theorem perform_halted {i : Instr} {plan : State → Plan} {s : State} (hb : s.busy = false)
    (hh : s.halt = true) : perform i plan s = (s.accept i).refuse .halted := by
  simp [perform, hb, State.examine, hh]

/-- A ready block refuses what the operation's checks refuse. -/
theorem perform_refuse {i : Instr} {s : State} {r : Reason} (h : s.Ready) (hp : planOf i s = .refuse r) :
    perform i (planOf i) s = (s.accept i).refuse r := by
  have : planOf i (s.accept i) = .refuse r := by rw [← hp]; exact planOf_congr i rfl rfl
  simp [perform, h.1, State.examine, h.2, this]

/-- A ready block runs the sequence of an operation it does not refuse. -/
theorem perform_go {i : Instr} {s : State} {w : Bool} {f : List Byte} {q : Sequence} (h : s.Ready)
    (hp : planOf i s = .go w f q) : perform i (planOf i) s = q.run (s.started i w f) := by
  have : planOf i (s.accept i) = .go w f q := by rw [← hp]; exact planOf_congr i rfl rfl
  simp [perform, h.1, State.examine, h.2, this, State.started]

/-- An operation whose events are answered to the end. -/
theorem exec_of_answered {i : Instr} {s : State} {w : Bool} {f : List Byte} {q : Sequence}
    {es : List Event} {b : Bus} {fin : Finish} (h : s.Ready) (hp : planOf i s = .go w f q)
    (hq : q.resume es = some (.done fin)) (hb : Answered s es b) :
    exec i s = .next (((s.started i w f).after es b).finish fin) := by
  rw [exec_eq, perform_go h hp, Sequence.run_of_answered hq (by simpa [Answered, State.started] using hb)]

/-- An operation one of whose transfers fails. -/
theorem exec_of_fails {i : Instr} {s : State} {w : Bool} {f : List Byte} {q : Sequence}
    {es : List Event} {b : Bus} {sent : List Byte} {k : List Byte → Sequence} (h : s.Ready)
    (hp : planOf i s = .go w f q) (hq : q.resume es = some (.xfer sent k)) (hb : FailsAfter s es sent b) :
    exec i s = .next (s.afterFailure i w es b) := by
  rw [exec_eq, perform_go h hp, Sequence.run_of_fails hq (by simpa [FailsAfter, Answered, State.started] using hb)]
  rfl

/-- What `exec` can do, said once: nothing while busy; a refusal for being halted; a refusal of the
operation's own; a run to its end; a run to a failed transfer. -/
theorem exec_cases (i : Instr) (s : State) :
    (s.busy = true ∧ exec i s = .next s) ∨
    (s.busy = false ∧ s.halt = true ∧ exec i s = .next ((s.accept i).refuse .halted)) ∨
    (s.Ready ∧ ∃ r, planOf i s = .refuse r ∧ exec i s = .next ((s.accept i).refuse r)) ∨
    (s.Ready ∧ ∃ w f q es b fin, planOf i s = .go w f q ∧ q.resume es = some (.done fin) ∧
      Answered s es b ∧ exec i s = .next (((s.started i w f).after es b).finish fin)) ∨
    (s.Ready ∧ ∃ w f q es b sent k, planOf i s = .go w f q ∧ q.resume es = some (.xfer sent k) ∧
      FailsAfter s es sent b ∧ exec i s = .next (s.afterFailure i w es b)) := by
  cases hb : s.busy with
  | true => exact .inl ⟨rfl, by rw [exec_eq, perform_busy hb]⟩
  | false =>
    cases hh : s.halt with
    | true => exact .inr (.inl ⟨rfl, rfl, by rw [exec_eq, perform_halted hb hh]⟩)
    | false =>
      have h : s.Ready := ⟨hb, hh⟩
      cases hp : planOf i s with
      | refuse r => exact .inr (.inr (.inl ⟨h, r, rfl, by rw [exec_eq, perform_refuse h hp]⟩))
      | go w f q =>
        rcases q.run_cases s with ⟨es, b, fin, h1, h2⟩ | ⟨es, b, sent, k, h1, h2⟩
        · exact .inr (.inr (.inr (.inl ⟨h, w, f, q, es, b, fin, rfl, h1, h2, exec_of_answered h hp h1 h2⟩)))
        · exact .inr (.inr (.inr (.inr ⟨h, w, f, q, es, b, sent, k, rfl, h1, h2, exec_of_fails h hp h1 h2⟩)))

/-! ### How long an operation is -/

/-- At most `n` events, whatever the replies. -/
def Sequence.within : Nat → Sequence → Prop
  | _, .done _ => True
  | 0, .delay _ _ => False
  | 0, .xfer _ _ => False
  | n + 1, .delay _ k => k.within n
  | n + 1, .xfer _ k => ∀ r, (k r).within n

theorem Sequence.within_mono {q : Sequence} {m n : Nat} (h : q.within m) (hmn : m ≤ n) : q.within n := by
  induction q generalizing m n with
  | done f => cases n <;> trivial
  | delay ms k ih =>
    cases m with
    | zero => exact h.elim
    | succ m => cases n with
      | zero => omega
      | succ n => exact ih (m := m) h (by omega)
  | xfer sent k ih =>
    cases m with
    | zero => exact h.elim
    | succ m => cases n with
      | zero => omega
      | succ n => exact fun r => ih r (m := m) (h r) (by omega)

theorem Sequence.within_chipCommand {c : Config} {cmd : BusCommand} {rlen n : Nat}
    {k : List Byte → Sequence} (h : ∀ r, (k r).within n) : (chipCommand c cmd rlen k).within (n + 3) := by
  intro _
  show Sequence.within (n + 1) (if 0 < rlen then _ else _)
  split
  · exact h
  · exact within_mono (h []) (by omega)

theorem Sequence.within_command {c : Config} {cmd : BusCommand} {n : Nat}
    {k : List Byte → Sequence} (h : (k []).within n) : (chipCommand c cmd 0 k).within (n + 2) := by
  intro _
  exact h

/-- The transceive sequence produces at most 18 events (R26, R180). -/
theorem transceiveSequence_within (c : Config) (frame : List Byte) (fin : Exchange → Finish) :
    (transceiveSequence c frame fin).within 18 := by
  unfold transceiveSequence commandTransceive commandIdle readRegister
  refine Sequence.within_command (n := 16) (Sequence.within_command (n := 14)
    (Sequence.within_chipCommand (n := 11) fun rf => ?_))
  dsimp only
  split
  · exact Sequence.within_command (n := 9) trivial
  · refine Sequence.within_command (n := 9) ?_
    show Sequence.within 8 _
    refine Sequence.within_chipCommand (n := 5) fun rx => ?_
    split
    · exact Sequence.within_command (n := 3) trivial
    · exact Sequence.within_chipCommand (n := 2) fun r => Sequence.within_command (n := 0) trivial

/-- Events a sequence has produced and what it can still produce are together within its bound. -/
theorem Sequence.within_resume {q q' : Sequence} {n : Nat} {es : List Event} (h : q.within n)
    (hq : q.resume es = some q') : es.length ≤ n ∧ q'.within (n - es.length) := by
  induction es generalizing q n with
  | nil => rw [resume_nil, Option.some.injEq] at hq; subst hq; exact ⟨Nat.zero_le _, h⟩
  | cons e es ih =>
    cases q with
    | done f => simp [resume] at hq
    | delay ms k =>
      cases n with
      | zero => exact h.elim
      | succ n =>
        cases e with
        | xfer a b => simp [resume] at hq
        | delay ms' =>
          simp only [resume] at hq
          split at hq
          · have := ih (n := n) h hq
            simp only [List.length_cons]
            exact ⟨by omega, by rw [Nat.add_sub_add_right]; exact this.2⟩
          · cases hq
    | xfer sent k =>
      cases n with
      | zero => exact h.elim
      | succ n =>
        cases e with
        | delay ms => simp [resume] at hq
        | xfer a b =>
          simp only [resume] at hq
          split at hq
          · have := ih (n := n) (h b) hq
            simp only [List.length_cons]
            exact ⟨by omega, by rw [Nat.add_sub_add_right]; exact this.2⟩
          · cases hq

/-- No operation produces more than 18 events (R26). -/
theorem planOf_within {i : Instr} {s : State} {w : Bool} {f : List Byte} {q : Sequence}
    (h : planOf i s = .go w f q) : q.within 18 := by
  have cmd : ∀ {c : Config} {cmd : BusCommand} {n : Nat} {k : List Byte → Sequence},
      (∀ r, (k r).within 0) → (chipCommand c cmd n k).within 18 := fun hk =>
    Sequence.within_mono (Sequence.within_chipCommand hk) (by omega)
  have fr : ∀ {w' r}, framed s w' r = .go w f q → q.within 18 := by
    intro w' r h
    unfold framed at h
    dsimp only at h
    split at h
    · cases h
    · cases h; exact transceiveSequence_within _ _ _
  cases i <;> simp only [planOf, planWriteRegister, planWriteRegisterOrMask, planWriteRegisterAndMask,
    planReadRegister, planReadEeprom, planSendData, planReadData, planLoadRfConfig, planRfOn, planRfOff,
    planSelfTest, planGetDieId, planGetProductVersion, planGetFirmwareVersion, planGetEepromVersion,
    planSetCommandIdle, planSetCommandTransceive, planSoftwareReset, planConfigureIso15693, planTransceive,
    planSetFlags, planGetFlags, planSelect, planInventory, planWriteMultipleBlocks, planCustomWriteSingle,
    planClassify, Plan.plain] at h
  case readSingleBlock | writeSingleBlock | resetToReady | lockAfi | lockDsfid | writeAfi | writeDsfid
    | getSystemInformation | getMultipleBlockSecurityStatus | custom => exact fr h
  case select => split at h; cases h; exact fr h
  case inventory | writeMultipleBlocks | customWriteSingle => cases h
  case setFlags | getFlags | classify => cases h; trivial
  case writeRegister | writeRegisterOrMask | writeRegisterAndMask | readRegister =>
    split at h
    · cases h; exact cmd fun _ => trivial
    · cases h
  case sendData =>
    split at h
    · cases h
    · split at h
      · cases h
      · cases h; exact cmd fun _ => trivial
  case readData =>
    split at h
    · cases h
    · cases h; exact cmd fun _ => trivial
  case transceive =>
    split at h
    · cases h
    · cases h; exact transceiveSequence_within _ _ _
  case readEeprom | loadRfConfig | rfOn | rfOff | getDieId | getProductVersion | getFirmwareVersion
    | getEepromVersion | setCommandIdle => cases h; exact cmd fun _ => trivial
  case selfTest =>
    cases h
    unfold readEeprom
    refine Sequence.within_mono (m := 12) ?_ (by omega)
    exact Sequence.within_chipCommand (n := 9) fun _ => Sequence.within_chipCommand (n := 6) fun _ =>
      Sequence.within_chipCommand (n := 3) fun _ => Sequence.within_chipCommand (n := 0) fun _ => trivial
  case setCommandTransceive =>
    cases h
    refine Sequence.within_mono (m := 4) ?_ (by omega)
    exact Sequence.within_command (n := 2) (Sequence.within_command (n := 0) trivial)
  case softwareReset =>
    cases h
    refine Sequence.within_mono (m := 6) ?_ (by omega)
    refine Sequence.within_command (n := 4) ?_
    show Sequence.within 3 _
    exact Sequence.within_command (n := 1) trivial
  case configureIso15693 =>
    cases h
    refine Sequence.within_mono (m := 12) ?_ (by omega)
    refine Sequence.within_command (n := 10) ?_
    show Sequence.within 9 _
    refine Sequence.within_command (n := 7) ?_
    show Sequence.within 6 _
    refine Sequence.within_command (n := 4) (Sequence.within_command (n := 2) ?_)
    exact Sequence.within_command (n := 0) trivial

end Sys2Proof.Machine
end

