-- ==== Sys2Proof/Laws/Requests.lean ====
section
/-! SUPPORT. A request as a whole, said once: when its plan refuses, what it does on events that are its own,
and the events of the transceive sequence. -/

namespace Sys2Proof.Machine

/-! ### Refusals -/

theorem framed_refuse_iff (s : State) (w : Bool) (req : RfRequest) (r : Reason) :
    framed s w req = .refuse r ↔ frameRefusal s req = some r := by
  unfold framed frameRefusal
  dsimp only
  split <;> simp

theorem address_refuse_iff (s : State) (a : Byte) (q : Sequence) (r : Reason) :
    (if s.cfg.chip.known a then Plan.plain q else .refuse .unknownRegister) = .refuse r ↔
      addressRefusal s a = some r := by
  unfold addressRefusal
  split <;> simp [Plan.plain]

theorem sendData_refuse_iff (s : State) (vb : Byte) (payload : List Byte) (r : Reason) :
    planSendData vb payload s = .refuse r ↔ refusalOf s (.sendData vb payload) = some r := by
  simp only [planSendData, refusalOf, validBitsOk, txLenOk, Bool.not_eq_true', decide_eq_false_iff_not, not_le,
    not_and_or, not_not, List.length_eq_zero_iff]
  split
  · simp
  · split <;> simp [Plan.plain]

theorem transceive_refuse_iff (s : State) (frame : List Byte) (r : Reason) :
    planTransceive frame s = .refuse r ↔ refusalOf s (.transceive frame) = some r := by
  simp only [planTransceive, refusalOf, txLenOk, Bool.not_eq_true', decide_eq_false_iff_not, not_le,
    not_and_or, not_not, List.length_eq_zero_iff]
  split <;> simp [Plan.plain]

theorem readData_refuse_iff (s : State) (len : BitVec 9) (r : Reason) :
    planReadData len s = .refuse r ↔ refusalOf s (.readData len) = some r := by
  simp only [planReadData, refusalOf, rxLenOk, Bool.not_eq_true', decide_eq_false_iff_not, not_le]
  split <;> simp [Plan.plain]

theorem select_refuse_iff (s : State) (uid : Uid) (r : Reason) :
    planSelect uid s = .refuse r ↔ refusalOf s (.select uid) = some r := by
  simp only [planSelect, refusalOf]
  cases mandatoryUid uid with
  | none => simp
  | some u => exact framed_refuse_iff _ _ _ _

/-- An operation's plan refuses exactly what `refusalOf` names. -/
theorem planOf_refuse_iff (i : Instr) (s : State) (r : Reason) :
    planOf i s = .refuse r ↔ refusalOf s i = some r := by
  have plain : ∀ q : Sequence, (Plan.plain q = .refuse r ↔ (none : Option Reason) = some r) := by
    intro q; simp [Plan.plain]
  have stub : ((Plan.refuse .unimplemented) = .refuse r ↔ some Reason.unimplemented = some r) := by simp
  cases i
  case writeRegister | writeRegisterOrMask | writeRegisterAndMask | readRegister =>
    exact address_refuse_iff _ _ _ _
  case sendData => exact sendData_refuse_iff _ _ _ _
  case readData => exact readData_refuse_iff _ _ _
  case transceive => exact transceive_refuse_iff _ _ _
  case select => exact select_refuse_iff _ _ _
  case inventory | writeMultipleBlocks | customWriteSingle => exact stub
  case readSingleBlock | writeSingleBlock | resetToReady | lockAfi | lockDsfid | writeAfi | writeDsfid
    | getSystemInformation | getMultipleBlockSecurityStatus | custom => exact framed_refuse_iff _ _ _ _
  all_goals exact plain _

/-- An operation that is not refused has a sequence. -/
theorem planOf_go_of_none {i : Instr} {s : State} (h : refusalOf s i = none) :
    ∃ w f q, planOf i s = .go w f q := by
  cases hp : planOf i s with
  | refuse r => rw [planOf_refuse_iff, h] at hp; cases hp
  | go w f q => exact ⟨w, f, q, rfl⟩

theorem refusalOf_of_go {i : Instr} {s : State} {w : Bool} {f : List Byte} {q : Sequence}
    (h : planOf i s = .go w f q) : refusalOf s i = none := by
  cases hr : refusalOf s i with
  | none => rfl
  | some r => rw [← planOf_refuse_iff, h] at hr; cases hr

theorem frameRefusal_ne_halted {s : State} {r : RfRequest} : frameRefusal s r ≠ some .halted := by
  unfold frameRefusal
  split <;> simp

/-- No operation's own check gives the reason `HALTED`. -/
theorem refusalOf_ne_halted {i : Instr} {s : State} : refusalOf s i ≠ some .halted := by
  cases i
  case writeRegister | writeRegisterOrMask | writeRegisterAndMask | readRegister =>
    show addressRefusal _ _ ≠ _
    unfold addressRefusal
    split <;> simp
  case sendData | readData | transceive =>
    simp only [refusalOf]
    repeat' split
    all_goals simp
  case select uid =>
    simp only [refusalOf]
    cases mandatoryUid uid with
    | none => simp
    | some u => exact frameRefusal_ne_halted
  case readSingleBlock | writeSingleBlock | resetToReady | lockAfi | lockDsfid | writeAfi | writeDsfid
    | getSystemInformation | getMultipleBlockSecurityStatus | custom => exact frameRefusal_ne_halted
  all_goals simp [refusalOf]

theorem accept_refuse_eq {s : State} {i : Instr} {r : Reason} (h : r ≠ .halted) :
    (s.accept i).refuse r = s.afterRefusal i r := by
  simp [State.accept, State.refuse, State.afterRefusal, h]

theorem exec_of_refused {i : Instr} {s : State} {r : Reason} (h : s.Ready) (hr : refusalOf s i = some r) :
    exec i s = .next (s.afterRefusal i r) := by
  rw [exec_eq, perform_refuse h ((planOf_refuse_iff _ _ _).mpr hr), accept_refuse_eq]
  rintro rfl; exact refusalOf_ne_halted hr

/-! ### Runs -/

/-- The events before a transfer of a sequence's own events lead to that transfer. -/
theorem Sequence.resume_split {q : Sequence} {before after : List Event} {sent reply : List Byte} {q' : Sequence}
    (h : q.resume (before ++ .xfer sent reply :: after) = some q') :
    ∃ k, q.resume before = some (.xfer sent k) := by
  induction before generalizing q with
  | nil =>
    cases q with
    | done f => simp [resume] at h
    | delay ms k => simp [resume] at h
    | xfer s' k =>
      simp only [List.nil_append, resume] at h
      split at h
      · rename_i hs; subst hs; exact ⟨k, rfl⟩
      · cases h
  | cons e es ih =>
    cases q with
    | done f => simp [resume] at h
    | delay ms k =>
      cases e with
      | xfer a b => simp [resume] at h
      | delay ms' =>
        simp only [List.cons_append, resume] at h ⊢
        split at h
        · rw [if_pos ‹_›]; exact ih h
        · cases h
    | xfer s' k =>
      cases e with
      | delay ms => simp [resume] at h
      | xfer a b =>
        simp only [List.cons_append, resume] at h ⊢
        split at h
        · rw [if_pos ‹_›]; exact ih h
        · cases h

/-- A sequence's own events to its end give both halves of `RunsTo`. -/
theorem runsTo_of_resume {i : Instr} {s : State} {w : Bool} {f : List Byte} {q : Sequence} {es : List Event}
    {fin : Finish} {post : Bus → State} (h : s.Ready) (hp : planOf i s = .go w f q)
    (hq : q.resume es = some (.done fin))
    (hpost : ∀ bus, ((s.started i w f).after es bus).finish fin = post bus) : RunsTo i s w es post := by
  refine ⟨fun bus hb => ?_, ?_⟩
  · rw [exec_of_answered h hp hq hb, hpost]
  · rintro before sent reply after bus rfl hf
    obtain ⟨k, hk⟩ := Sequence.resume_split hq
    exact exec_of_fails h hp hk hf

/-! ### The transceive sequence -/

/-- The first seven events lead to the test of the RF status (R180, step 2). -/
theorem transceive_head {c : Config} (hc : c.limits.regReadLen = 4) (frame d0 d1 d2 rf : List Byte)
    (hrf : rf.length = 4) (fin : Exchange → Finish) (es : List Event) :
    (transceiveSequence c frame fin).resume (transceiveHead c d0 d1 d2 rf ++ es) =
      Sequence.resume
        (if tstateOf c (de32 rf) ≠ .waitTransmit then
          commandIdle c <| .done (fin (noExchange c .statePreconditionFailed))
        else
          chipCommand c (.sendData c.bytes.sendAllBits frame) 0 fun _ =>
          .delay c.time.tSettle <|
          readRegister c c.chip.regRxStatus fun rx =>
          if c.limits.rxMax < rxLenOf c rx then
            commandIdle c <| .done (fin (noExchange c .rxLengthFault))
          else
            chipCommand c (.readData c.bytes.readDataParam) (rxLenOf c rx) fun r =>
            commandIdle c <| .done (fin (received c r))) es := by
  unfold transceiveSequence commandTransceive
  rw [commandIdle, transceiveHead, acquireEvents, idleEvents, List.append_assoc, List.append_assoc,
    Sequence.resume_command, Sequence.resume_command, readRegister, hc, ← hrf, Sequence.resume_chipCommand]

/-- Events 7 to 12 lead to the test of the received count (R180, step 5). -/
theorem transceive_middle {c : Config} (hc : c.limits.regReadLen = 4) (frame d3 d4 rx : List Byte)
    (hrx : rx.length = 4) (k : Word → Sequence) (es : List Event) :
    (chipCommand c (.sendData c.bytes.sendAllBits frame) 0 fun _ =>
      .delay c.time.tSettle <| readRegister c c.chip.regRxStatus k).resume
        (transceiveMiddle c frame d3 d4 rx ++ es) = (k (de32 rx)).resume es := by
  rw [transceiveMiddle, List.append_assoc, List.append_assoc, Sequence.resume_command]
  simp only [List.cons_append, List.nil_append, Sequence.resume, if_true]
  rw [readRegister, hc, ← hrx, Sequence.resume_chipCommand]

/-- The release at the end of every path (R181). -/
theorem resume_idle (c : Config) (d : List Byte) (q : Sequence) :
    (commandIdle c q).resume (idleEvents c d) = some q := by
  have := Sequence.resume_command c (.writeRegisterAndMask c.chip.regSystemConfig c.chip.maskCmdClear) d
    (fun _ => q) []
  rw [List.append_nil, Sequence.resume_nil] at this
  exact this

/-- The normal path (R180). -/
theorem transceive_normal {c : Config} (hc : c.limits.regReadLen = 4)
    (frame d0 d1 d2 d3 d4 d5 d6 rf rx r : List Byte) (hrf : rf.length = 4) (hrx : rx.length = 4)
    (fin : Exchange → Finish) (ht : tstateOf c (de32 rf) = .waitTransmit)
    (hl : rxLenOf c (de32 rx) = r.length) (hr : r.length ≤ c.limits.rxMax) :
    (transceiveSequence c frame fin).resume
      (transceiveHead c d0 d1 d2 rf ++ transceiveMiddle c frame d3 d4 rx ++ transceiveTail c d5 r d6) =
      some (.done (fin (received c r))) := by
  rw [List.append_assoc, transceive_head hc _ _ _ _ _ hrf, if_neg (by simp [ht]),
    transceive_middle hc _ _ _ _ hrx, if_neg (by omega), hl, transceiveTail, Sequence.resume_chipCommand,
    resume_idle]

/-- The path on which the chip is not in WAIT_TRANSMIT (R180). -/
theorem transceive_precondition {c : Config} (hc : c.limits.regReadLen = 4)
    (frame d0 d1 d2 d6 rf : List Byte) (hrf : rf.length = 4)
    (fin : Exchange → Finish) (ht : tstateOf c (de32 rf) ≠ .waitTransmit) :
    (transceiveSequence c frame fin).resume (transceiveHead c d0 d1 d2 rf ++ idleEvents c d6) =
      some (.done (fin (noExchange c .statePreconditionFailed))) := by
  rw [transceive_head hc _ _ _ _ _ hrf, if_pos ht, resume_idle]

/-- The path on which the received count exceeds `RX_MAX` (R180). -/
theorem transceive_length {c : Config} (hc : c.limits.regReadLen = 4)
    (frame d0 d1 d2 d3 d4 d6 rf rx : List Byte) (hrf : rf.length = 4) (hrx : rx.length = 4)
    (fin : Exchange → Finish) (ht : tstateOf c (de32 rf) = .waitTransmit)
    (hl : c.limits.rxMax < rxLenOf c (de32 rx)) :
    (transceiveSequence c frame fin).resume
      (transceiveHead c d0 d1 d2 rf ++ transceiveMiddle c frame d3 d4 rx ++ idleEvents c d6) =
      some (.done (fin (noExchange c .rxLengthFault))) := by
  rw [List.append_assoc, transceive_head hc _ _ _ _ _ hrf, if_neg (by simp [ht]),
    transceive_middle hc _ _ _ _ hrx, if_pos hl, resume_idle]

theorem received_flags (c : Config) (r : List Byte) : (received c r).flags = r.headD c.bytes.noAnswerFlags := by
  cases r <;> rfl

theorem received_data (c : Config) (r : List Byte) : (received c r).data = r.tail := by
  cases r <;> rfl

theorem received_outcome (c : Config) (r : List Byte) : (received c r).outcome = .ok := by
  cases r <;> rfl

theorem regReadLen_of_wf {c : Config} (h : c.wf = true) : c.limits.regReadLen = 4 := by
  simp only [Config.wf, Widths.wf, Bool.and_eq_true, beq_iff_eq] at h
  have hw : c.width.regWidth = 32 := by tauto
  have hr : 8 * c.limits.regReadLen = c.width.regWidth := by tauto
  omega

end Sys2Proof.Machine
end

