-- ==== Sys2Proof/Laws/Shape.lean ====
section
/-! SUPPORT. What every operation's sequence is made of, and how it can end. -/

namespace Sys2Proof.Machine

/-! ### What sequences are made of -/

/-- Made of commands and delays, whatever the replies (R183). -/
inductive Sequence.Built (c : Config) : Sequence → Prop where
  | done (f : Finish) : Built c (.done f)
  | wait (ms : Nat) (k : Sequence) : Built c k → Built c (.delay ms k)
  | command (cmd : BusCommand) (n : Nat) (k : List Byte → Sequence) :
      (∀ r, Built c (k r)) → Built c (chipCommand c cmd n k)

theorem transceiveSequence_built (c : Config) (frame : List Byte) (fin : Exchange → Finish) :
    (transceiveSequence c frame fin).Built c := by
  unfold transceiveSequence commandTransceive commandIdle readRegister
  refine .command _ _ _ fun _ => .command _ _ _ fun _ => .command _ _ _ fun rf => ?_
  dsimp only
  split
  · exact .command _ _ _ fun _ => .done _
  · refine .command _ _ _ fun _ => .wait _ _ (.command _ _ _ fun rx => ?_)
    split
    · exact .command _ _ _ fun _ => .done _
    · exact .command _ _ _ fun _ => .command _ _ _ fun _ => .done _

/-- The shape of a plan that does not refuse: what holds of every sequence made so holds of it. -/
theorem planOf_built {i : Instr} {s : State} {w : Bool} {f : List Byte} {q : Sequence}
    (h : planOf i s = .go w f q) : q.Built s.cfg := by
  have fr : ∀ {w' r}, framed s w' r = .go w f q → q.Built s.cfg := by
    intro w' r h
    unfold framed at h
    dsimp only at h
    split at h
    · cases h
    · cases h; exact transceiveSequence_built _ _ _
  cases i <;> simp only [planOf, planWriteRegister, planWriteRegisterOrMask, planWriteRegisterAndMask,
    planReadRegister, planReadEeprom, planSendData, planReadData, planLoadRfConfig, planRfOn, planRfOff,
    planSelfTest, planGetDieId, planGetProductVersion, planGetFirmwareVersion, planGetEepromVersion,
    planSetCommandIdle, planSetCommandTransceive, planSoftwareReset, planConfigureIso15693, planTransceive,
    planSetFlags, planGetFlags, planSelect, planInventory, planWriteMultipleBlocks, planCustomWriteSingle,
    planClassify, Plan.plain] at h
  case readSingleBlock | writeSingleBlock | resetToReady | lockAfi | lockDsfid | writeAfi | writeDsfid
    | getSystemInformation | getMultipleBlockSecurityStatus | custom => exact fr h
  case select => split at h; cases h; exact fr h
  case inventory | writeMultipleBlocks | customWriteSingle => cases h
  case setFlags | getFlags | classify => cases h; exact .done _
  case writeRegister | writeRegisterOrMask | writeRegisterAndMask | readRegister =>
    split at h
    · cases h; exact .command _ _ _ fun _ => .done _
    · cases h
  case sendData =>
    split at h
    · cases h
    · split at h
      · cases h
      · cases h; exact .command _ _ _ fun _ => .done _
  case readData =>
    split at h
    · cases h
    · cases h; exact .command _ _ _ fun _ => .done _
  case transceive =>
    split at h
    · cases h
    · cases h; exact transceiveSequence_built _ _ _
  case readEeprom | loadRfConfig | rfOn | rfOff | getDieId | getProductVersion | getFirmwareVersion
    | getEepromVersion | setCommandIdle => cases h; exact .command _ _ _ fun _ => .done _
  case selfTest =>
    cases h
    exact .command _ _ _ fun _ => .command _ _ _ fun _ => .command _ _ _ fun _ => .command _ _ _ fun _ => .done _
  case setCommandTransceive => cases h; exact .command _ _ _ fun _ => .command _ _ _ fun _ => .done _
  case softwareReset =>
    cases h
    exact .command _ _ _ fun _ => .wait _ _ (.command _ _ _ fun _ => .wait _ _ (.done _))
  case configureIso15693 =>
    cases h
    exact .command _ _ _ fun _ => .wait _ _ (.command _ _ _ fun _ => .wait _ _
      (.command _ _ _ fun _ => .command _ _ _ fun _ => .command _ _ _ fun _ => .done _))

/-! ### How sequences end -/

/-- Every end of the sequence, whatever the replies, satisfies `P`. -/
def Sequence.Ends (P : Finish → Prop) : Sequence → Prop
  | .done f => P f
  | .delay _ k => k.Ends P
  | .xfer _ k => ∀ r, (k r).Ends P

theorem Sequence.ends_of_resume {P : Finish → Prop} {q : Sequence} {es : List Event} {f : Finish}
    (h : q.Ends P) (hq : q.resume es = some (.done f)) : P f := by
  induction es generalizing q with
  | nil => rw [resume_nil, Option.some.injEq] at hq; subst hq; exact h
  | cons e es ih =>
    cases q with
    | done f => simp [resume] at hq
    | delay ms k =>
      cases e with
      | xfer a b => simp [resume] at hq
      | delay ms' =>
        simp only [resume] at hq
        split at hq
        · exact ih (q := k) h hq
        · cases hq
    | xfer sent k =>
      cases e with
      | delay ms => simp [resume] at hq
      | xfer a b =>
        simp only [resume] at hq
        split at hq
        · exact ih (h b) hq
        · cases hq

theorem Sequence.ends_command {P : Finish → Prop} {c : Config} {cmd : BusCommand} {n : Nat}
    {k : List Byte → Sequence} (h : ∀ r, (k r).Ends P) : (chipCommand c cmd n k).Ends P := by
  intro _
  show Sequence.Ends P (if 0 < n then _ else _)
  split
  · exact h
  · exact h []

theorem Sequence.ends_delay {P : Finish → Prop} {ms : Nat} {k : Sequence} (h : k.Ends P) :
    (Sequence.delay ms k).Ends P := h

/-- What a transceive sequence can return: the bytes received, or the sentinel with an outcome (R180). -/
theorem transceiveSequence_ends {P : Finish → Prop} {c : Config} {frame : List Byte} {fin : Exchange → Finish}
    (h1 : ∀ r, P (fin (received c r))) (h2 : P (fin (noExchange c .statePreconditionFailed)))
    (h3 : P (fin (noExchange c .rxLengthFault))) : (transceiveSequence c frame fin).Ends P := by
  unfold transceiveSequence commandTransceive commandIdle readRegister
  refine Sequence.ends_command fun _ => Sequence.ends_command fun _ => Sequence.ends_command fun rf => ?_
  dsimp only
  split
  · exact Sequence.ends_command fun _ => h2
  · refine Sequence.ends_command fun _ => ?_
    refine Sequence.ends_delay (Sequence.ends_command fun rx => ?_)
    split
    · exact Sequence.ends_command fun _ => h3
    · exact Sequence.ends_command fun r => Sequence.ends_command fun _ => h1 r

/-- The final writes of an operation, by operation (R28). -/
def endsOf (c : Config) : Instr → Finish → Prop
  | .writeRegister _ _, f => f = .ok
  | .writeRegisterOrMask _ _, f => f = .ok
  | .writeRegisterAndMask _ _, f => f = .ok
  | .readRegister _, f => ∃ v, f = .value v
  | .readEeprom _ _, f => ∃ d, f = .data d
  | .sendData _ _, f => f = .ok
  | .readData _, f => ∃ d, f = .data d
  | .loadRfConfig _ _, f => f = .ok
  | .rfOn _, f => f = .ok
  | .rfOff, f => f = .ok
  | .selfTest, f => ∃ d, f = .data d
  | .getDieId, f => ∃ d, f = .data d
  | .getProductVersion, f => ∃ d, f = .data d
  | .getFirmwareVersion, f => ∃ d, f = .data d
  | .getEepromVersion, f => ∃ d, f = .data d
  | .setCommandIdle, f => f = .ok
  | .setCommandTransceive, f => f = .ok
  | .softwareReset, f => f = .ok
  | .configureIso15693, f => f = .ok
  | .transceive _, f => ∃ e, f = .exchange e ∧ ((∃ r, e = received c r) ∨
      e = noExchange c .statePreconditionFailed ∨ e = noExchange c .rxLengthFault)
  | .setFlags v, f => f = .setFlags v
  | .getFlags, f => f = .flagsOut
  | .classify a d, f => f = .classified a d
  | .inventory, _ => False
  | .writeMultipleBlocks, _ => False
  | .customWriteSingle, _ => False
  | .readSingleBlock _ _, f => framedEnd c f
  | .writeSingleBlock _ _ _, f => framedEnd c f
  | .select _, f => framedEnd c f
  | .resetToReady _, f => framedEnd c f
  | .lockAfi _, f => framedEnd c f
  | .lockDsfid _, f => framedEnd c f
  | .writeAfi _ _, f => framedEnd c f
  | .writeDsfid _ _, f => framedEnd c f
  | .getSystemInformation _, f => framedEnd c f
  | .getMultipleBlockSecurityStatus _ _ _, f => framedEnd c f
  | .custom _ _ _ _, f => framedEnd c f
where
  /-- The ends of a framed command. -/
  framedEnd (c : Config) (f : Finish) : Prop :=
    ∃ e, f = .framed e ∧ ((∃ r, e = received c r) ∨
      e = noExchange c .statePreconditionFailed ∨ e = noExchange c .rxLengthFault)

theorem transceiveSequence_endsOf {c : Config} {frame : List Byte} {fin : Exchange → Finish} :
    (transceiveSequence c frame fin).Ends fun f => ∃ e, f = fin e ∧ ((∃ r, e = received c r) ∨
      e = noExchange c .statePreconditionFailed ∨ e = noExchange c .rxLengthFault) :=
  transceiveSequence_ends (fun r => ⟨_, rfl, .inl ⟨r, rfl⟩⟩) ⟨_, rfl, .inr (.inl rfl)⟩ ⟨_, rfl, .inr (.inr rfl)⟩

theorem planOf_ends {i : Instr} {s : State} {w : Bool} {f : List Byte} {q : Sequence}
    (h : planOf i s = .go w f q) : q.Ends (endsOf s.cfg i) := by
  have fr : ∀ {w' r}, framed s w' r = .go w f q → q.Ends (endsOf.framedEnd s.cfg) := by
    intro w' r h
    unfold framed at h
    dsimp only at h
    split at h
    · cases h
    · cases h; exact transceiveSequence_endsOf
  cases i <;> simp only [planOf, planWriteRegister, planWriteRegisterOrMask, planWriteRegisterAndMask,
    planReadRegister, planReadEeprom, planSendData, planReadData, planLoadRfConfig, planRfOn, planRfOff,
    planSelfTest, planGetDieId, planGetProductVersion, planGetFirmwareVersion, planGetEepromVersion,
    planSetCommandIdle, planSetCommandTransceive, planSoftwareReset, planConfigureIso15693, planTransceive,
    planSetFlags, planGetFlags, planSelect, planInventory, planWriteMultipleBlocks, planCustomWriteSingle,
    planClassify, Plan.plain] at h
  case readSingleBlock | writeSingleBlock | resetToReady | lockAfi | lockDsfid | writeAfi | writeDsfid
    | getSystemInformation | getMultipleBlockSecurityStatus | custom => exact fr h
  case select => split at h; cases h; exact fr h
  case inventory | writeMultipleBlocks | customWriteSingle => cases h
  case setFlags | getFlags | classify => cases h; exact rfl
  case writeRegister | writeRegisterOrMask | writeRegisterAndMask =>
    split at h
    · cases h; exact Sequence.ends_command fun _ => rfl
    · cases h
  case readRegister =>
    split at h
    · cases h; exact Sequence.ends_command fun _ => ⟨_, rfl⟩
    · cases h
  case sendData =>
    split at h
    · cases h
    · split at h
      · cases h
      · cases h; exact Sequence.ends_command fun _ => rfl
  case readData =>
    split at h
    · cases h
    · cases h; exact Sequence.ends_command fun _ => ⟨_, rfl⟩
  case transceive =>
    split at h
    · cases h
    · cases h; exact transceiveSequence_endsOf
  case readEeprom | getDieId | getProductVersion | getFirmwareVersion | getEepromVersion =>
    cases h; exact Sequence.ends_command fun _ => ⟨_, rfl⟩
  case loadRfConfig | rfOn | rfOff | setCommandIdle => cases h; exact Sequence.ends_command fun _ => rfl
  case selfTest =>
    cases h
    exact Sequence.ends_command fun _ => Sequence.ends_command fun _ => Sequence.ends_command fun _ =>
      Sequence.ends_command fun _ => ⟨_, rfl⟩
  case setCommandTransceive => cases h; exact Sequence.ends_command fun _ => Sequence.ends_command fun _ => rfl
  case softwareReset =>
    cases h
    exact Sequence.ends_command fun _ => Sequence.ends_delay (Sequence.ends_command fun _ =>
      Sequence.ends_delay rfl)
  case configureIso15693 =>
    cases h
    exact Sequence.ends_command fun _ => Sequence.ends_delay (Sequence.ends_command fun _ =>
      Sequence.ends_delay (Sequence.ends_command fun _ => Sequence.ends_command fun _ =>
        Sequence.ends_command fun _ => rfl))

/-! ### Frames and warnings of a plan -/

/-- The frame a plan puts in `TXF`, and the warning it raises (R23, R204). -/
theorem planOf_frame {i : Instr} {s : State} {w : Bool} {f : List Byte} {q : Sequence}
    (h : planOf i s = .go w f q) :
    w = malformedOf s.cfg i ∧ f = ((rfRequestOf i).map (RfRequest.frame s.cfg s.flags)).getD [] ∧
      f.length ≤ s.cfg.limits.txMax := by
  have fr : ∀ {w' r}, framed s w' r = .go w f q →
      w = w' ∧ f = RfRequest.frame s.cfg s.flags r ∧ f.length ≤ s.cfg.limits.txMax := by
    intro w' r h
    unfold framed at h
    dsimp only at h
    split at h
    · cases h
    · cases h; exact ⟨rfl, rfl, by omega⟩
  cases i <;> simp only [planOf, planWriteRegister, planWriteRegisterOrMask, planWriteRegisterAndMask,
    planReadRegister, planReadEeprom, planSendData, planReadData, planLoadRfConfig, planRfOn, planRfOff,
    planSelfTest, planGetDieId, planGetProductVersion, planGetFirmwareVersion, planGetEepromVersion,
    planSetCommandIdle, planSetCommandTransceive, planSoftwareReset, planConfigureIso15693, planTransceive,
    planSetFlags, planGetFlags, planSelect, planInventory, planWriteMultipleBlocks, planCustomWriteSingle,
    planClassify, Plan.plain] at h
  case readSingleBlock | writeSingleBlock | resetToReady | lockAfi | lockDsfid | writeAfi | writeDsfid
    | getSystemInformation | getMultipleBlockSecurityStatus | custom => exact fr h
  case select uid =>
    cases hm : mandatoryUid uid with
    | none => simp [hm] at h
    | some u =>
      simp only [hm] at h
      have := fr h
      simpa [rfRequestOf, hm, malformedOf] using this
  all_goals repeat' split at h
  all_goals cases h
  all_goals exact ⟨rfl, rfl, Nat.zero_le _⟩

/-- A framed command's plan (R202). -/
theorem planOf_framed {i : Instr} {s : State} {req : RfRequest} (h : rfRequestOf i = some req) :
    planOf i s = framed s (malformedOf s.cfg i) req := by
  cases i <;> simp only [rfRequestOf, Option.some.injEq, reduceCtorEq] at h
  case select uid =>
    cases hm : mandatoryUid uid with
    | none => simp [hm] at h
    | some u =>
      simp only [hm, Option.map_some, Option.some.injEq] at h
      subst h
      simp [planOf, planSelect, hm, malformedOf]
  all_goals (subst h; rfl)

end Sys2Proof.Machine
end

