-- ==== Sys2Proof/Laws/Advance.lean ====
section
/-! SUPPORT. One event at a time: how the rest of an operation follows from the events it has produced, and what
one event can do. -/

namespace Sys2Proof.Machine

theorem SeqReg.step_succ {x : BitVec 5} (h : x.toNat < 31) : (x + 1).toNat = x.toNat + 1 := by
  rw [BitVec.toNat_add, show (1 : BitVec 5).toNat = 1 from rfl]
  omega

/-- An event is added to those produced. -/
theorem State.produced_event {s : State} {e : Event} (h1 : s.seq.step.toNat ≤ s.trace.length)
    (h2 : s.seq.step.toNat < 31) : (s.event e).produced = s.produced ++ [e] := by
  simp only [State.produced, State.event, List.length_append, List.length_cons, List.length_nil,
    SeqReg.step_succ h2, List.drop_append]
  rw [show s.trace.length + (0 + 1) - (s.seq.step.toNat + 1) = s.trace.length - s.seq.step.toNat by omega,
    show s.trace.length - s.seq.step.toNat - s.trace.length = 0 by omega, List.drop_zero]

/-- The rest of an operation after one more event. -/
theorem State.current_event {s : State} {b : Bus} {e : Event} {q q' : Sequence}
    (h1 : s.seq.step.toNat ≤ s.trace.length) (h2 : s.seq.step.toNat < 31) (hc : s.current = some q)
    (hq : q.resume [e] = some q') : (State.event { s with bus := b } e).current = some q' := by
  have hp : (State.event { s with bus := b } e).produced = s.produced ++ [e] :=
    State.produced_event (s := { s with bus := b }) h1 h2
  have hplan : ∀ i, planOf i (State.event { s with bus := b } e) = planOf i s := fun i => planOf_congr i rfl rfl
  have hop : (State.event { s with bus := b } e).seq.op = s.seq.op := rfl
  have hlat : (State.event { s with bus := b } e).latches = s.latches := rfl
  rw [State.current, hop, hlat, hp]
  rw [State.current] at hc
  cases hs : s.seq.op with
  | none => rw [hs] at hc; cases hc
  | some sel =>
    rw [hs] at hc
    dsimp only at hc ⊢
    rw [hplan]
    cases hg : planOf (s.latches.instr sel) s with
    | refuse r => rw [hg] at hc; cases hc
    | go w f body =>
      rw [hg] at hc
      exact (Sequence.resume_append hc).trans hq

/-- `SEQ.step` counts the events produced, at most 18, and the rest is within what is left of 18 (R26). -/
theorem State.current_within {s : State} {q : Sequence} (h1 : s.seq.step.toNat ≤ s.trace.length)
    (hc : s.current = some q) :
    s.produced.length = s.seq.step.toNat ∧ s.seq.step.toNat ≤ 18 ∧ q.within (18 - s.seq.step.toNat) := by
  have hl : s.produced.length = s.seq.step.toNat := by
    simp only [State.produced, List.length_drop]
    omega
  simp only [State.current] at hc
  split at hc
  · cases hc
  · split at hc
    · rename_i h
      have := Sequence.within_resume (planOf_within h) hc
      rw [hl] at this
      exact ⟨hl, this⟩
    · cases hc

theorem Sequence.unfinished_of_within_zero {q : Sequence} (h : q.within 0) : q.unfinished = false := by
  cases q with
  | done f => rfl
  | delay ms k => exact h.elim
  | xfer sent k => exact h.elim

theorem Sequence.done_of_not_unfinished {q : Sequence} (h : ¬ q.unfinished = true) : ∃ f, q = .done f := by
  cases q with
  | done f => exact ⟨f, rfl⟩
  | delay ms k => exact absurd rfl h
  | xfer sent k => exact absurd rfl h

theorem Sequence.settle_unfinished {q : Sequence} {s : State} (h : q.unfinished = true) : q.settle s = s := by
  cases q with
  | done f => cases h
  | delay ms k => rfl
  | xfer sent k => rfl

/-- An unfinished operation has produced fewer than 18 events. -/
theorem State.step_lt {s : State} {q : Sequence} (h1 : s.seq.step.toNat ≤ s.trace.length)
    (hc : s.current = some q) (hu : q.unfinished = true) : s.seq.step.toNat < 18 := by
  obtain ⟨-, hle, hw⟩ := State.current_within h1 hc
  by_contra hn
  rw [show 18 - s.seq.step.toNat = 0 by omega] at hw
  rw [Sequence.unfinished_of_within_zero hw] at hu
  cases hu

/-- What one event of the operation in progress can do: leave more to do; be the last; fail. -/
theorem advance_cases {s : State} {q : Sequence} (hb : s.busy = true) (hc : s.current = some q)
    (hu : q.unfinished = true) (h1 : s.seq.step.toNat ≤ s.trace.length) :
    (∃ e b q', q.resume [e] = some q' ∧ Answered s [e] b ∧ q'.unfinished = true ∧
      (State.event { s with bus := b } e).current = some q' ∧
      advance s = .next (State.event { s with bus := b } e)) ∨
    (∃ e b f, q.resume [e] = some (.done f) ∧ Answered s [e] b ∧
      advance s = .next ((State.event { s with bus := b } e).finish f)) ∨
    (∃ b sent k, q = .xfer sent k ∧ FailsAfter s [] sent b ∧
      advance s = .next (State.haltBus { s with bus := b })) := by
  have hlt := State.step_lt h1 hc hu
  rw [advance, if_pos hb, hc]
  cases q with
  | done f => cases hu
  | delay ms k =>
    have hr : (Sequence.delay ms k).resume [.delay ms] = some k := by simp [Sequence.resume, Sequence.resume_nil]
    by_cases hk : k.unfinished = true
    · refine .inl ⟨.delay ms, s.bus, k, hr, by simp [Answered, busAfter], hk,
        State.current_event h1 (by omega) hc hr, ?_⟩
      simp only [Sequence.once, Sequence.settle_unfinished hk]
    · obtain ⟨f, rfl⟩ := Sequence.done_of_not_unfinished hk
      exact .inr (.inl ⟨.delay ms, s.bus, f, hr, by simp [Answered, busAfter], rfl⟩)
  | xfer sent k =>
    rcases ht : Bus.transfer s.cfg s.trace sent s.bus with ⟨o, b0⟩
    cases o with
    | none =>
      refine .inr (.inr ⟨b0, sent, k, rfl, ⟨s.bus, by simp [Answered, busAfter], by simpa using ht⟩, ?_⟩)
      simp only [Sequence.once, State.transfer_none ht]
    | some reply =>
      have ha : Answered s [.xfer sent reply] b0 := by simp [Answered, busAfter, ht]
      have hr : (Sequence.xfer sent k).resume [.xfer sent reply] = some (k reply) := by
        simp [Sequence.resume, Sequence.resume_nil]
      by_cases hk : (k reply).unfinished = true
      · refine .inl ⟨.xfer sent reply, b0, k reply, hr, ha, hk, State.current_event h1 (by omega) hc hr, ?_⟩
        simp only [Sequence.once, State.transfer_some ht, Sequence.settle_unfinished hk]
      · obtain ⟨f, hf⟩ := Sequence.done_of_not_unfinished hk
        refine .inr (.inl ⟨.xfer sent reply, b0, f, by rw [hr, hf], ha, ?_⟩)
        simp only [Sequence.once, State.transfer_some ht, hf, Sequence.settle]

/-- The state right after acceptance of an operation with events: all of its sequence is to come. -/
theorem State.current_started {s : State} {i : Instr} {w : Bool} {f : List Byte} {q : Sequence}
    (hp : planOf i s = .go w f q) : (s.started i w f).current = some q := by
  have h1 : (s.started i w f).latches.instr i.selector = i := by cases i <;> rfl
  have h2 : planOf i (s.started i w f) = .go w f q := by rw [← hp]; exact planOf_congr i rfl rfl
  have h3 : (s.started i w f).produced = [] := by simp [State.produced, State.started]
  have h4 : (s.started i w f).seq.op = some i.selector := rfl
  simp only [State.current, h4, h1, h2, h3, Sequence.resume_nil]

end Sys2Proof.Machine
end

