-- ==== Sys2Proof/Laws/Memory.lean ====
section
/-! SUPPORT. The chip-side memories: reading after writing, and the canonical form kept by every operation. -/

namespace Sys2Proof.Machine

/-- The cells from some address on: the form of a memory all of whose addresses are above `lo`. -/
def Memory.above (lo : Nat) (m : Memory) : Prop := ∀ p ∈ m, lo < p.1

theorem Memory.wf_cons (a : Nat) (b : Byte) (m : Memory) :
    Memory.wf ((a, b) :: m) = true ↔ b ≠ unlisted ∧ Memory.above a m ∧ Memory.wf m = true := by
  induction m generalizing a b with
  | nil => simp [wf, above]
  | cons q m ih =>
    obtain ⟨a', b'⟩ := q
    have key := ih a' b'
    rw [wf, Bool.and_eq_true, Bool.and_eq_true, key]
    constructor
    · rintro ⟨⟨hb, hlt⟩, hb', hab, hm⟩
      refine ⟨by simpa using hb, ?_, hb', hab, hm⟩
      intro p hp
      rcases List.mem_cons.mp hp with rfl | hp
      · simpa using hlt
      · exact lt_trans (by simpa using hlt) (hab p hp)
    · rintro ⟨hb, hab, hb', hab', hm⟩
      exact ⟨⟨by simpa using hb, by simpa using hab _ List.mem_cons_self⟩, hb', hab', hm⟩

/-- An address at or below the lower bound of the cells has none. -/
theorem Memory.read_of_above {lo x : Nat} {m : Memory} (h : Memory.above lo m) (hx : x ≤ lo) :
    Memory.read m x = unlisted := by
  induction m with
  | nil => rfl
  | cons q m ih =>
    obtain ⟨a', b'⟩ := q
    have h0 : lo < a' := h (a', b') List.mem_cons_self
    rw [read, if_neg (by omega)]
    exact ih fun p hp => h p (List.mem_cons_of_mem _ hp)

theorem Memory.write_above {lo : Nat} {m : Memory} (h : Memory.above lo m) {a : Nat} (ha : lo < a) (b : Byte) :
    Memory.above lo (Memory.write m a b) := by
  induction m with
  | nil =>
    rw [write]; split
    · exact h
    · intro p hp; rw [List.mem_singleton] at hp; subst hp; exact ha
  | cons q m ih =>
    obtain ⟨a', b'⟩ := q
    have hm : Memory.above lo m := fun p hp => h p (List.mem_cons_of_mem _ hp)
    have keep : Memory.above lo ((a, b) :: m) := by
      intro p hp
      rcases List.mem_cons.mp hp with rfl | hp
      · exact ha
      · exact hm p hp
    rw [write]
    split
    · split
      · exact h
      · intro p hp
        rcases List.mem_cons.mp hp with rfl | hp
        · exact ha
        · exact h p hp
    · split
      · split
        · exact hm
        · exact keep
      · intro p hp
        rcases List.mem_cons.mp hp with rfl | hp
        · exact h _ List.mem_cons_self
        · exact ih hm p hp

/-- A write keeps the canonical form. -/
theorem Memory.write_wf {m : Memory} (h : Memory.wf m = true) (a : Nat) (b : Byte) :
    Memory.wf (Memory.write m a b) = true := by
  induction m with
  | nil =>
    rw [write]; split
    · rfl
    · rw [wf_cons]; exact ⟨‹_›, fun _ hp => absurd hp List.not_mem_nil, rfl⟩
  | cons q m ih =>
    obtain ⟨a', b'⟩ := q
    have h0 := h
    rw [wf_cons] at h
    obtain ⟨hb', hab, hm⟩ := h
    rw [write]
    split
    · rename_i hlt
      split
      · exact h0
      · rw [wf_cons]
        refine ⟨‹_›, fun p hp => ?_, h0⟩
        rcases List.mem_cons.mp hp with rfl | hp
        · exact hlt
        · exact lt_trans hlt (hab p hp)
    · split
      · rename_i hge heq
        subst heq
        split
        · exact hm
        · rw [wf_cons]; exact ⟨‹_›, hab, hm⟩
      · rw [wf_cons]; exact ⟨hb', write_above hab (by omega) b, ih hm⟩

/-- A byte read after a write: the written one there, the old one elsewhere. -/
theorem Memory.read_write {m : Memory} (h : Memory.wf m = true) (a x : Nat) (b : Byte) :
    Memory.read (Memory.write m a b) x = if x = a then b else Memory.read m x := by
  induction m with
  | nil =>
    rw [write]
    by_cases hx : x = a
    · subst hx; split
      · rename_i hb; simp [read, hb]
      · simp [read]
    · split
      · rfl
      · simp [read, Ne.symm hx]
  | cons q m ih =>
    obtain ⟨a', b'⟩ := q
    rw [wf_cons] at h
    obtain ⟨hb', hab, hm⟩ := h
    rw [write]
    by_cases hx : x = a
    · subst hx
      rw [if_pos rfl]
      split
      · split
        · rename_i hlt hb
          rw [read, if_neg (by omega), read_of_above hab (by omega), hb]
        · rw [read, if_pos rfl]
      · split
        · split
          · rename_i heq hb
            rw [read_of_above hab (by omega), hb]
          · rw [read, if_pos rfl]
        · rw [read, if_neg (by omega), ih hm, if_pos rfl]
    · rw [if_neg hx]
      split
      · split
        · rfl
        · rw [read, if_neg (Ne.symm hx)]
      · split
        · rename_i heq
          subst heq
          split
          · rw [read, if_neg (Ne.symm hx)]
          · rw [read, if_neg (Ne.symm hx), read, if_neg (Ne.symm hx)]
        · rw [read, read, ih hm, if_neg hx]

/-- Writing several bytes keeps the canonical form. -/
theorem Memory.writeBytes_wf {m : Memory} (h : Memory.wf m = true) (a : Nat) (bs : List Byte) :
    Memory.wf (Memory.writeBytes m a bs) = true := by
  induction bs generalizing m a with
  | nil => exact h
  | cons b bs ih => exact ih (write_wf h a b) _

/-- A byte after several were written: the written one inside their range, the old one outside. -/
theorem Memory.read_writeBytes {m : Memory} (h : Memory.wf m = true) (a x : Nat) (bs : List Byte) :
    Memory.read (Memory.writeBytes m a bs) x =
      if a ≤ x ∧ x < a + bs.length then bs.getD (x - a) 0 else Memory.read m x := by
  induction bs generalizing m a with
  | nil => rw [writeBytes, if_neg (by simp only [List.length_nil]; omega)]
  | cons b bs ih =>
    rw [writeBytes, ih (write_wf h a b), read_write h]
    simp only [List.length_cons]
    by_cases hx : x = a
    · subst hx
      rw [if_neg (by omega), if_pos rfl, if_pos (by omega), Nat.sub_self, List.getD_cons_zero]
    · by_cases h1 : a ≤ x ∧ x < a + (bs.length + 1)
      · rw [if_pos (by omega), if_pos h1, show x - a = (x - (a + 1)) + 1 by omega, List.getD_cons_succ]
      · rw [if_neg (by omega), if_neg h1, if_neg hx]

/-- The bytes just written are read back. -/
theorem Memory.readBytes_writeBytes {m : Memory} (h : Memory.wf m = true) (a : Nat) (bs : List Byte) :
    Memory.readBytes (Memory.writeBytes m a bs) a bs.length = bs := by
  have key : ∀ n k, k + n = bs.length →
      Memory.readBytes (Memory.writeBytes m a bs) (a + k) n = bs.drop k := by
    intro n
    induction n with
    | zero => intro k hk; rw [readBytes, List.drop_of_length_le (by omega)]
    | succ n ih =>
      intro k hk
      have hlt : k < bs.length := by omega
      rw [readBytes, read_writeBytes h, if_pos (by omega), Nat.add_assoc, ih (k + 1) (by omega),
        List.drop_eq_getElem_cons hlt, show a + k - a = k by omega]
      congr 1
      simp [List.getD_eq_getElem?_getD, hlt]
  simpa using key bs.length 0 (by omega)

end Sys2Proof.Machine
end

