-- ==== Sys2Proof/Tests/Slice0.lean ====
section
/-! SUPPORT. Tests of the model: ill-formed terms refused, words written out from the spec's encodings, the
vectors of spec 95_test_vectors (named in each comment), and for every statement with hypotheses a state and
operands that meet them. -/

namespace Sys2Proof.Tests

open Sys2Proof.Machine

/-! ### Helpers -/

/-- The state after reset with the reference responder on the bus. -/
def onChip (chip : Responder) (failIn : Option Nat := none) : State :=
  { State.reset with bus := .responder chip failIn }

/-- The state after reset with an oracle that has these answers ready. -/
def scripted (answers : List (Option (List Byte))) : State :=
  { State.reset with bus := .oracle answers 0 }

/-- The state an operation answers with. -/
def after (i : Instr) (s : State) : State :=
  match exec i s with
  | .next t => t
  | .fault _ => s
  | .refused _ => s

/-- The state a step answers with. -/
def stepped (s : State) : State :=
  match step s with
  | .next t => t
  | .fault _ => s
  | .refused _ => s

/-- What an operation sent and waited, its probe replies and its outcome. -/
def seen (i : Instr) (s : State) : List (List Byte ⊕ Nat) × List (List Byte) × OpOutcome :=
  (shapeOf (after i s).trace, probeReplies s.cfg (after i s).trace, (after i s).outcome)

/-- The identifier the vectors call `U`. -/
def u : List Byte := [0x11, 0x22, 0x33, 0x44, 0x55, 0x66, 0x77, 0x88]

/-- The frame a framed command sends: what follows `SEND_DATA` and its valid-bits byte. -/
def sentFrame (i : Instr) (s : State) : Option (List Byte) :=
  (commandsOf s.cfg (after i s).trace).findSome? fun
    | .sendData _ p => some p
    | _ => none

/-- A responder whose tag gives one answer to every frame. -/
def tagged (answer : List Byte) : State := onChip { tagElse := answer }

/-! ### Well-formedness: each check refuses an ill-formed term -/

theorem smoke_uid_of_seven_bytes : (Instr.readSingleBlock 5 (some (u.take 7))).wf Config.default = false := by decide
theorem smoke_uid_of_eight_bytes : (Instr.readSingleBlock 5 (some u)).wf Config.default = true := by decide
theorem smoke_select_uid : (Instr.select (some (u ++ [0]))).wf Config.default = false := by decide
theorem smoke_uid_of_each_framed : ∀ i ∈ [Instr.writeSingleBlock 0 [] (some []), .resetToReady (some []),
    .lockAfi (some []), .lockDsfid (some []), .writeAfi 0 (some []), .writeDsfid 0 (some []),
    .getSystemInformation (some []), .getMultipleBlockSecurityStatus 0 0 (some []), .custom 0 0 [] (some [])],
    i.wf Config.default = false := by decide
theorem smoke_seq_too_long (n : Nat) (h : 65535 < n) : seqWf (rep 0 n) = false := by
  simp [seqWf, portSeqMax, rep]; omega
theorem smoke_payload_too_long (n : Nat) (h : 65535 < n) :
    (Instr.sendData 0 (rep 0 n)).wf Config.default = false ∧ (Instr.transceive (rep 0 n)).wf Config.default = false ∧
    (Instr.writeSingleBlock 0 (rep 0 n) none).wf Config.default = false ∧
    (Instr.custom 0 0 (rep 0 n) none).wf Config.default = false := by
  have := smoke_seq_too_long n h
  simp only [Instr.wf, this, Bool.false_and, and_self]
theorem smoke_cdata_too_long : (Instr.classify 0 [1, 2]).wf { limits := { rxMax := 1 } } = false := by decide
theorem smoke_custom_code_taken : (RfRequest.custom 0x20 7 none []).wf Config.default = false := by decide
theorem smoke_request_uid : ∀ r ∈ [RfRequest.select [1], .readSingleBlock (some []) 0, .writeSingleBlock (some []) 0 [],
    .resetToReady (some []), .lockAfi (some []), .lockDsfid (some []), .writeAfi (some []) 0,
    .writeDsfid (some []) 0, .getSystemInformation (some []), .getMultipleBlockSecurityStatus (some []) 0 0,
    .custom 0xA0 0 (some []) []], r.wf Config.default = false := by decide
theorem smoke_config_default : Config.default.wf = true := by decide
theorem smoke_config_probe : ({ bytes := { probeByte := 0x04 } } : Config).wf = false := by decide
theorem smoke_config_opcodes : ({ opc := { rfOn := 0x17 } } : Config).wf = false := by decide
theorem smoke_config_selectors : ({ hop := { classify := 0x01 } } : Config).wf = false ∧
    ({ hop := { noRequest := 0x30 } } : Config).wf = false := by decide
theorem smoke_config_widths : ({ width := { regWidth := 16 } } : Config).wf = false ∧
    ({ width := { eepromAddrBits := 9 } } : Config).wf = false ∧
    ({ width := { eepromLenBits := 16 } } : Config).wf = false ∧
    ({ limits := { regReadLen := 2 } } : Config).wf = false := by decide
theorem smoke_config_field : ({ chip := { cmdFieldBits := 4 } } : Config).wf = false ∧
    ({ chip := { cmdFieldBits := 1, maskCmdClear := 0xFFFFFFFE } } : Config).wf = false := by decide
theorem smoke_config_mask : ({ chip := { maskCmdClear := 0 } } : Config).wf = false := by decide

/-! ### Decoding: words written out from R120 to R122 (selectors, operands as latched), R102, R111 -/

/-- Whether a request's bytes decode to an operation, all of them used. -/
def reads (bytes : List Byte) (i : Instr) : Bool :=
  match decodeRequest Config.default bytes with
  | .ok (j, rest) => decide (j = i) && rest.isEmpty
  | .error _ => false

theorem test_decode_registers :
    reads [0x01, 0x39, 0xEF, 0xBE, 0xAD, 0xDE] (.writeRegister 0x39 0xDEADBEEF) ∧
    reads [0x02, 0x00, 0x03, 0x00, 0x00, 0x00] (.writeRegisterOrMask 0x00 3) ∧
    reads [0x03, 0x00, 0xF8, 0xFF, 0xFF, 0xFF] (.writeRegisterAndMask 0x00 0xFFFFFFF8) ∧
    reads [0x04, 0x1D] (.readRegister 0x1D) := by decide
theorem test_decode_codec :
    reads [0x05, 0x10, 0x02] (.readEeprom 0x10 0x02) ∧
    reads [0x06, 0x07, 0x01, 0x00, 0xAA] (.sendData 7 [0xAA]) ∧
    reads [0x07, 0xFC, 0x01] (.readData 508) ∧ reads [0x08, 0x0D, 0x8D] (.loadRfConfig 0x0D 0x8D) ∧
    reads [0x09, 0x01] (.rfOn 1) ∧ reads [0x0A] .rfOff := by decide
theorem test_decode_control :
    reads [0x10] .selfTest ∧ reads [0x11] .getDieId ∧ reads [0x12] .getProductVersion ∧
    reads [0x13] .getFirmwareVersion ∧ reads [0x14] .getEepromVersion ∧ reads [0x15] .setCommandIdle ∧
    reads [0x16] .setCommandTransceive ∧ reads [0x17] .softwareReset ∧ reads [0x18] .configureIso15693 ∧
    reads [0x19, 0x03, 0x00, 0x01, 0x20, 0x05] (.transceive [0x01, 0x20, 0x05]) := by decide
theorem test_decode_frames :
    reads [0x20, 0x22] (.setFlags 0x22) ∧ reads [0x21] .getFlags ∧
    reads ([0x22, 0xFF, 0x08] ++ u) (.readSingleBlock 0xFF (some u)) ∧
    reads [0x23, 0x03, 0x02, 0x00, 0x01, 0x02, 0x00] (.writeSingleBlock 3 [1, 2] none) ∧
    reads ([0x24, 0x08] ++ u) (.select (some u)) ∧ reads [0x25, 0x00] (.resetToReady none) ∧
    reads [0x26, 0x00] (.lockAfi none) ∧ reads [0x27, 0x00] (.lockDsfid none) := by decide
theorem test_decode_frames_more :
    reads [0x28, 0x07, 0x00] (.writeAfi 7 none) ∧ reads [0x29, 0x5A, 0x00] (.writeDsfid 0x5A none) ∧
    reads [0x2A, 0x00] (.getSystemInformation none) ∧
    reads [0x2B, 0x00, 0x04, 0x00] (.getMultipleBlockSecurityStatus 0 4 none) ∧
    reads [0x2C, 0xA0, 0x07, 0x02, 0x00, 0xAA, 0xBB, 0x00] (.custom 0xA0 7 [0xAA, 0xBB] none) ∧
    reads [0x2D] .inventory ∧ reads [0x2E] .writeMultipleBlocks ∧ reads [0x2F] .customWriteSingle ∧
    reads [0x30, 0x01, 0x01, 0x00, 0x10] (.classify 0x01 [0x10]) := by decide
theorem test_decode_rejects :
    decodeRequest Config.default [] = .error .empty ∧
    decodeRequest Config.default [0x00] = .error (.badSelector 0x00) ∧
    decodeRequest Config.default [0x0B] = .error (.badSelector 0x0B) ∧
    decodeRequest Config.default [0x01, 0x00] = .error .truncated ∧
    decodeRequest Config.default [0x24, 0x07, 1, 2, 3, 4, 5, 6, 7] = .error (.badUidLength 7) ∧
    decodeRequest Config.default [0x07, 0x00, 0x02] = .error .badLenOperand := by decide
theorem test_table_words : (decodeTableWord 8 0x01).map Instr.selector = some .writeRegisterOrMask ∧
    (decodeTableWord 8 0x0A).map Instr.selector = some .readData ∧
    (decodeTableWord 8 0x17).map Instr.selector = some .softwareReset ∧
    (decodeTableWord 8 0x26).map Instr.selector = some .resetToReady ∧
    (decodeTableWord 8 0x2D).map Instr.selector = some .inventory ∧
    (decodeTableWord 8 0xA0).map Instr.selector = some .custom := by decide
theorem test_rf_frames : decodeRfFrame Config.default false [0x01, 0x21, 0x03] = .ok (0x01, .writeSingleBlock none 3 []) ∧
    decodeRfFrame Config.default true ([0x01, 0xA0, 0x07] ++ u) = .ok (0x01, .custom 0xA0 7 (some u) []) := by decide

/-! ### Conversions: V1 to V8 -/

theorem test_le32 : le32 0x12345678 = [0x78, 0x56, 0x34, 0x12] ∧ le32 0x00000100 = [0, 1, 0, 0] := by decide
theorem test_de32 : de32 [0, 0, 0, 1] = 0x01000000 ∧ de32 [0xFD, 1, 0, 0] = 509 := by decide
theorem test_le16 : le16 0x0400 = [0, 4] ∧ de16 [0, 4] = 0x0400 := by decide

/-! ### Command codec: V10 to V35 -/

theorem test_write_register : seen (.writeRegister 0 0x12345678) (onChip {}) =
    ([.inl [0x00, 0x00, 0x78, 0x56, 0x34, 0x12], .inr 5], [], .ok) := by decide
theorem test_write_register_unknown : ∀ a ∈ [(0x2A : Byte), 0x38, 0x3A, 0xFF],
    (after (.writeRegister a 0) (onChip {})).resReason = .unknownRegister ∧
    seen (.writeRegister a 0) (onChip {}) = ([], [], .refused) := by decide
theorem test_or_mask : seen (.writeRegisterOrMask 0 3) (onChip {}) =
    ([.inl [0x01, 0x00, 0x03, 0x00, 0x00, 0x00], .inr 5], [], .ok) := by decide
theorem test_and_mask : seen (.writeRegisterAndMask 0 0xFFFFFFF8) (onChip {}) =
    ([.inl [0x02, 0x00, 0xF8, 0xFF, 0xFF, 0xFF], .inr 5], [], .ok) := by decide
theorem test_read_register : (after (.readRegister 0x39) (after (.writeRegister 0x39 0xDEADBEEF) (onChip {}))).resValue =
    0xDEADBEEF := by decide
theorem test_read_register_unknown : (after (.readRegister 0x2A) (onChip {})).resReason = .unknownRegister := by decide
theorem test_read_eeprom : seen (.readEeprom 0x10 2) (onChip { eeprom := [(0x10, 0x10), (0x11, 0x11)] }) =
    ([.inl [0x07, 0x10, 0x02], .inr 5, .inl [0xFF, 0xFF]], [[0x10, 0x11]], .ok) := by decide
theorem test_read_eeprom_end : (after (.readEeprom 0xFE 4) (onChip { eeprom := [(0xFE, 0xFE), (0xFF, 0xFF)] })).resData =
    [0xFE, 0xFF, 0xFF, 0xFF] ∧ seen (.readEeprom 0 0) (onChip {}) = ([.inl [7, 0, 0], .inr 5], [], .ok) := by decide
theorem test_send_data : seen (.sendData 7 [0xAA]) (onChip {}) = ([.inl [0x09, 0x07, 0xAA], .inr 5], [], .ok) := by decide
theorem test_send_data_checks : (after (.sendData 8 []) (onChip {})).resReason = .badValidBits ∧
    (after (.sendData 0 []) (onChip {})).resReason = .badLength := by decide
theorem test_read_data : seen (.readData 2) (after (.sendData 0 [1]) (tagged [3, 4])) =
    ([.inl [0x09, 0, 1], .inr 5, .inl [0x0A, 0x00], .inr 5, .inl [0xFF, 0xFF]], [[3, 4]], .ok) := by decide
theorem test_read_data_length : (after (.readData 509) (onChip {})).resReason = .badLength ∧
    seen (.readData 0) (onChip {}) = ([.inl [0x0A, 0x00], .inr 5], [], .ok) := by decide
theorem test_load_rf_config : seen (.loadRfConfig 0x0D 0x8D) (onChip {}) =
    ([.inl [0x11, 0x0D, 0x8D], .inr 5], [], .ok) := by decide
theorem test_rf_on : seen (.rfOn 0) (onChip {}) = ([.inl [0x16, 0x00], .inr 5], [], .ok) := by decide
theorem test_rf_off : seen .rfOff (onChip {}) = ([.inl [0x17, 0x00], .inr 5], [], .ok) := by decide

/-! ### Device control: V37 to V46 -/

/-- The version bytes of V37. -/
def versions : State := onChip { eeprom := [(0x11, 0x04), (0x13, 0x04), (0x14, 0x98)] }

theorem test_self_test : (after .selfTest versions).resData = rep 0 16 ++ [0x00, 0x04, 0x00, 0x04, 0x98, 0x00] ∧
    (after .selfTest versions).trace.length = 12 := by decide
theorem test_get_die_id : shapeOf (after .getDieId versions).trace =
    [.inl [0x07, 0x00, 0x10], .inr 5, .inl (rep 0xFF 16)] := by decide
theorem test_get_product_version : seen .getProductVersion versions =
    ([.inl [0x07, 0x10, 0x02], .inr 5, .inl [0xFF, 0xFF]], [[0x00, 0x04]], .ok) := by decide
theorem test_get_firmware_version : de16 (after .getFirmwareVersion versions).resData = 0x0400 := by decide
theorem test_get_eeprom_version : seen .getEepromVersion versions =
    ([.inl [0x07, 0x14, 0x02], .inr 5, .inl [0xFF, 0xFF]], [[0x98, 0x00]], .ok) := by decide
theorem test_set_command_idle : seen .setCommandIdle (onChip {}) =
    ([.inl [0x02, 0x00, 0xF8, 0xFF, 0xFF, 0xFF], .inr 5], [], .ok) := by decide
theorem test_set_command_transceive : (after (.readRegister 0)
    (after .setCommandTransceive (onChip { reg := [(0, 0x45), (1, 0x01)] }))).resValue = 0x143 := by decide
theorem test_software_reset : shapeOf (after .softwareReset (onChip {})).trace =
    [.inl [0x01, 0x00, 0x00, 0x01, 0x00, 0x00], .inr 5, .inr 50, .inl [0x02, 0x00, 0xFF, 0xFE, 0xFF, 0xFF], .inr 5,
     .inr 50] := by decide
theorem test_configure : (shapeOf (after .configureIso15693 (onChip {})).trace).drop 6 =
    [.inl [0x11, 0x0D, 0x8D], .inr 5, .inl [0x16, 0x00], .inr 5, .inl [0x02, 0x00, 0xF8, 0xFF, 0xFF, 0xFF],
     .inr 5] := by decide
theorem test_transceive_nothing_received : seen (.transceive [0x01, 0x20, 0x05]) (tagged []) =
    ([.inl [0x02, 0x00, 0xF8, 0xFF, 0xFF, 0xFF], .inr 5, .inl [0x01, 0x00, 0x03, 0x00, 0x00, 0x00], .inr 5,
      .inl [0x04, 0x1D], .inr 5, .inl [0xFF, 0xFF, 0xFF, 0xFF], .inl [0x09, 0x00, 0x01, 0x20, 0x05], .inr 5, .inr 50,
      .inl [0x04, 0x13], .inr 5, .inl [0xFF, 0xFF, 0xFF, 0xFF], .inl [0x0A, 0x00], .inr 5,
      .inl [0x02, 0x00, 0xF8, 0xFF, 0xFF, 0xFF], .inr 5], [[0, 0, 0, 1], [0, 0, 0, 0]], .ok) := by decide
theorem test_transceive_not_waiting : seen (.transceive [0x01, 0x20, 0x05]) (onChip { forceTstate := some 5 }) =
    ([.inl [0x02, 0x00, 0xF8, 0xFF, 0xFF, 0xFF], .inr 5, .inl [0x01, 0x00, 0x03, 0x00, 0x00, 0x00], .inr 5,
      .inl [0x04, 0x1D], .inr 5, .inl [0xFF, 0xFF, 0xFF, 0xFF], .inl [0x02, 0x00, 0xF8, 0xFF, 0xFF, 0xFF], .inr 5],
     [[0, 0, 0, 5]], .statePreconditionFailed) := by decide

/-- D20: the error code of an earlier `CLASSIFY` is valid no longer after a failed precondition. -/
theorem test_transceive_not_waiting_code : (after (.classify 0x01 [0x10]) (onChip { forceTstate := some 5 })).resCodeValid = true ∧
    (after (.transceive [0x01, 0x20, 0x05])
      (after (.classify 0x01 [0x10]) (onChip { forceTstate := some 5 }))).resCodeValid = false := by decide

/-- A command field of four bits at bit 4: TRANSCEIVE written and seen there (R7, R42, R92). -/
def wideField : Config :=
  { chip := { cmdFieldLo := 4, cmdFieldBits := 4, cmdTransceive := 9, maskCmdClear := 0xFFFFFF0F,
              maskCmdTransceive := 0x90 } }
theorem test_wide_command_field : wideField.wf = true ∧
    (after (.transceive [1]) { onChip { tagElse := [0, 7] } with cfg := wideField }).resData = [7] ∧
    (after (.transceive [1]) { onChip { tagElse := [0, 7] } with cfg := wideField }).outcome = .ok := by decide

/-- Other selectors: the port follows them (R7, R120). -/
def swapped : Config := { hop := { setFlags := 0x21, getFlags := 0x20, noRequest := 0xFF } }
theorem test_selectors_are_parameters : swapped.wf = true ∧
    (stepped { onChip {} with cfg := swapped, inputs := [.call [0x21, 0x22]] }).flags = 0x22 ∧
    (stepped { onChip {} with cfg := swapped, inputs := [.call [0x21, 0x22]] }).latches.op = 0x21 ∧
    (stepped { onChip {} with cfg := swapped, inputs := [.call [0xFF]] }).resReason = .badSelector := by decide

/-- V43 and V42 at the boundaries of the two tests: 509 bytes, 9 bytes with every other bit set; state 1 with
every other bit set. -/
theorem test_received_count : rxLenOf Config.default (de32 [0xFD, 0x01, 0, 0]) = 509 ∧
    rxLenOf Config.default (de32 [0x09, 0xFE, 0xFF, 0xFF]) = 9 ∧
    tstateOf Config.default (de32 [0xFF, 0xFF, 0xFF, 0xF9]) = .waitTransmit := by decide

/-- V46: the fourth transfer fails; six events, halted, the result registers as before. -/
theorem test_bus_failure : (after (.transceive [0x01, 0x20, 0x05]) (onChip {} (some 3))).trace.length = 6 ∧
    (after (.transceive [0x01, 0x20, 0x05]) (onChip {} (some 3))).outcome = .busUnavailable ∧
    (after (.transceive [0x01, 0x20, 0x05]) (onChip {} (some 3))).halt = true ∧
    (after .getFlags (after (.transceive [0x01, 0x20, 0x05]) (onChip {} (some 3)))).resReason = .halted := by decide

/-! ### Frame builder: V50 to V5B -/

theorem test_set_flags : sentFrame (.readSingleBlock 5 none) (after (.setFlags 0x22) (onChip {})) = some [0x22, 0x20, 0x05] := by decide
theorem test_get_flags : (after .getFlags (after (.setFlags 0x22) (onChip {}))).resFlagsOut = 0x22 ∧
    seen .getFlags (onChip {}) = ([], [], .ok) := by decide
theorem test_read_single_block : sentFrame (.readSingleBlock 0xFF (some u)) (onChip {}) =
    some ([0x01, 0x20] ++ u ++ [0xFF]) := by decide
theorem test_read_single_block_no_answer : (after (.readSingleBlock 5 none) (tagged [])).outcome = .noAnswer := by decide
theorem test_write_single_block : sentFrame (.writeSingleBlock 3 [1, 2, 3, 4, 5, 6, 7, 8] none) (onChip {}) =
    some [0x01, 0x21, 0x03, 1, 2, 3, 4, 5, 6, 7, 8] ∧
    (after (.writeSingleBlock 3 [1, 2, 3, 4, 5, 6, 7, 8] none) (onChip {})).warn = false := by decide
theorem test_write_single_block_malformed : sentFrame (.writeSingleBlock 3 [] none) (onChip {}) =
    some [0x01, 0x21, 0x03] ∧ (after (.writeSingleBlock 3 [] none) (onChip {})).warn = true := by decide
theorem test_select : sentFrame (.select (some u)) (onChip {}) = some ([0x01, 0x25] ++ u) := by decide
theorem test_select_without : (after (.select none) (onChip {})).resReason = .missingUid := by decide
theorem test_reset_to_ready : sentFrame (.resetToReady (some u)) (onChip {}) = some ([0x01, 0x26] ++ u) := by decide
theorem test_lock_afi : sentFrame (.lockAfi none) (onChip {}) = some [0x01, 0x28] := by decide
theorem test_lock_dsfid : sentFrame (.lockDsfid none) (onChip {}) = some [0x01, 0x2A] := by decide
theorem test_write_afi : sentFrame (.writeAfi 7 none) (onChip {}) = some [0x01, 0x27, 0x07] := by decide
theorem test_write_dsfid : sentFrame (.writeDsfid 0x5A (some u)) (onChip {}) = some ([0x01, 0x29] ++ u ++ [0x5A]) := by decide
theorem test_get_system_information : sentFrame (.getSystemInformation none) (onChip {}) = some [0x01, 0x2B] := by decide
theorem test_get_multiple_block_security_status :
    sentFrame (.getMultipleBlockSecurityStatus 0 4 none) (onChip {}) = some [0x01, 0x2C, 0x00, 0x04] := by decide
theorem test_custom : sentFrame (.custom 0xA0 7 [] (some u)) (onChip {}) = some ([0x01, 0xA0, 0x07] ++ u) := by decide
theorem test_stubs : ∀ i ∈ [Instr.inventory, .writeMultipleBlocks, .customWriteSingle],
    (after i (onChip {})).resReason = .unimplemented ∧ seen i (onChip {}) = ([], [], .refused) := by decide

/-- V5C, by `step`. -/
theorem test_bad_selector : ∀ b ∈ [(0x00 : Byte), 0x0B, 0x1A, 0x31, 0xFF],
    (stepped { onChip {} with inputs := [.call [b]] }).resReason = .badSelector := by decide

/-! ### Classification: V60 to V67, R113 -/

theorem test_classify : (after (.classify 0x80 [0x12]) (onChip {})).resCode = 0x12 ∧
    (after (.classify 0x80 [0x12]) (onChip {})).outcome = .tagError := by decide
theorem test_classify_no_answer : (after (.classify 0xFF [0x10, 0x20]) (onChip {})).outcome = .noAnswer ∧
    (after (.classify 0xFF [0x10, 0x20]) (onChip {})).resCodeValid = false := by decide
theorem test_describe : describe 0x77 = "unhandled error" := by decide
theorem test_flag_bits : (requestFlagBits 0x22).dataRate = true ∧ (requestFlagBits 0x22).address = true ∧
    (requestFlagBits 0x22).subCarrier = false := by decide
theorem test_register_names : registerName 0x1D = some "RF_STATUS" ∧ registerName 0x06 = none := by decide

/-! ### Witnesses: for every statement with hypotheses, a state and operands that meet them -/

/-- A block in the middle of an operation. -/
def busy : State := match accept .rfOff (scripted []) with
  | .next t => t
  | .fault _ => State.reset
  | .refused _ => State.reset

/-- A block halted by a failed transfer. -/
def halted : State := after .rfOff (scripted [none])

theorem ready_scripted (l : List (Option (List Byte))) : (scripted l).Ready := ⟨rfl, rfl⟩
theorem ready_onChip (chip : Responder) (f : Option Nat) : (onChip chip f).Ready := ⟨rfl, rfl⟩
theorem length_rep (b : Byte) (n : Nat) : (rep b n).length = n := List.length_replicate
theorem wf_default : State.reset.cfg.wf = true := by decide

theorem witness_LittleEndianConversions : ([1, 2, 3, 4] : List Byte).length = 4 ∧ ([1, 2] : List Byte).length = 2 := by decide
theorem witness_RequestBytesDecodeToTheirOperation : Config.default.wf = true ∧
    ∀ i ∈ [Instr.readData 511, .sendData 255 [], .select (some u), .classify 0 [1], .custom 0 0 [] none],
      i.wf Config.default = true := by decide
theorem witness_SelectorCodes : Config.default.wf = true ∧ swapped.wf = true ∧
    Selector.ofCode swapped.hop 0x21 = some .setFlags := by decide
theorem witness_BusFramesRoundTrip : Config.default.wf = true ∧
    decodeBusFrame Config.default [0x09, 0x00] = .ok (.sendData 0 []) := by decide
theorem witness_RequestFramesRoundTrip : Config.default.wf = true ∧
    ∀ r ∈ [RfRequest.select u, .readSingleBlock none 0, .writeSingleBlock (some u) 0 [], .custom 0xA0 0 none []],
      r.wf Config.default = true := by decide
theorem witness_RequestFrameLayouts : u.length = 8 ∧ ((none : Uid) = none ∨ (none : Uid) = some u) ∧
    (some u = none ∨ some u = some u) := by decide
theorem witness_BusyPortTakesNothing : busy.busy = true ∧
    ({ busy with inputs := [.call [0x0A]] } : State).inputs = .call [0x0A] :: [] ∧
    ({ busy with inputs := [.present [0x0A]] } : State).inputs = .present [0x0A] :: [] := by decide
theorem witness_AcceptanceLatchesAndStarts : ∃ w f q, (scripted []).Ready ∧
    planOf .rfOff (scripted []) = .go w f q ∧ q.unfinished = true :=
  ⟨_, _, _, ready_scripted _, rfl, rfl⟩
theorem witness_HaltedBlockRefusesEverything : halted.busy = false ∧ halted.halt = true ∧
    Selector.ofCode {} 0x31 = none ∧
    ({ halted with inputs := [.call [0x31]] } : State).inputs = .call [0x31] :: [] ∧
    ({ halted with inputs := [.present [0x31]] } : State).inputs = .present [0x31] :: [] := by decide
theorem witness_UnlistedSelectorsAndStubsAreRefused : ({ scripted [] with inputs := [.call [0xFF]] } : State).Ready ∧
    Selector.ofCode {} 0xFF = none ∧ Selector.ofCode {} 0x00 = none ∧ Selector.ofCode {} 0x0B = none ∧
    ({ scripted [] with inputs := [.call [0xFF]] } : State).inputs = .call [0xFF] :: [] :=
  ⟨⟨rfl, rfl⟩, by decide⟩
theorem witness_RefusalReasons : (scripted []).Ready ∧
    refusalOf (scripted []) (.readRegister 0x2A) = some .unknownRegister ∧
    refusalOf (scripted []) (.readRegister 0x29) = none ∧
    refusalOf (scripted []) (.sendData 8 []) = some .badValidBits ∧
    refusalOf (scripted []) (.sendData 7 []) = some .badLength ∧ refusalOf (scripted []) (.sendData 7 [1]) = none ∧
    refusalOf (scripted []) (.readData 509) = some .badLength ∧ refusalOf (scripted []) (.readData 508) = none ∧
    refusalOf (scripted []) (.transceive []) = some .badLength ∧
    refusalOf (scripted []) (.select none) = some .missingUid ∧
    refusalOf (scripted []) .inventory = some .unimplemented ∧
    halted.busy = false ∧ halted.halt = true := ⟨ready_scripted _, by decide⟩
theorem witness_StepRunsTheDecodedRequest : State.reset.busy = false ∧
    decodeRequest State.reset.cfg [0x04, 0x1D] = .ok (.readRegister 0x1D, []) ∧
    ({ State.reset with inputs := [.call [0x04, 0x1D]] } : State).inputs = .call [0x04, 0x1D] :: [] ∧
    ({ State.reset with inputs := [.present [0x04, 0x1D]] } : State).inputs = .present [0x04, 0x1D] :: [] := by decide
theorem witness_EveryOperationEndsReadyWithinEighteenEvents : State.reset.busy = false ∧ halted.busy = false := by decide

/-- The bus answers the events of one register write, to the last known address and to 0x39. -/
theorem witness_RegisterWritesSendOneFrame : (scripted [some [0, 0, 0, 0, 0, 0]]).Ready ∧
    (scripted []).cfg.chip.known 0x29 = true ∧ (scripted []).cfg.chip.known 0x39 = true ∧
    (scripted []).cfg.chip.known 0x2A = false ∧ (scripted []).cfg.chip.known 0x38 = false ∧
    Answered (scripted [some [0, 0, 0, 0, 0, 0]]) [.xfer ([0x00, 0x29] ++ le32 7) [0, 0, 0, 0, 0, 0], .delay 5]
      (.oracle [] 1) ∧
    (onChip {}).cfg.wf = true ∧ (onChip {}).bus = .responder {} none ∧ ({} : Responder).pending = [] ∧
    ({} : Responder).reg.wf = true :=
  ⟨ready_scripted _, rfl, rfl, rfl, rfl, rfl, wf_default, rfl, rfl, rfl⟩
/-- A failed transfer meets the second half of `RunsTo`. -/
theorem witness_RunsTo_fails : FailsAfter (scripted [some [0, 0], none])
    [.xfer [0x04, 0x13] [0, 0], .delay 5] [0xFF, 0xFF, 0xFF, 0xFF] (.oracle [] 2) := ⟨_, rfl, rfl⟩
theorem witness_ReadRegisterDecodesItsReply : (scripted [some [0, 0], some [1, 2, 3, 4]]).Ready ∧
    (scripted []).cfg.wf = true ∧ (scripted []).cfg.chip.known 0x13 = true ∧
    (scripted []).cfg.chip.known 0x3A = false ∧
    Answered (scripted [some [0, 0], some [1, 2, 3, 4]])
      [.xfer [0x04, 0x13] [0, 0], .delay 5, .xfer (rep 0xFF 4) [1, 2, 3, 4]] (.oracle [] 2) :=
  ⟨ready_scripted _, wf_default, rfl, rfl, rfl⟩
theorem witness_ReadEepromFetchesItsLength : (scripted []).Ready ∧
    ([9] : List Byte).length = (1 : Byte).toNat ∧ ([] : List Byte).length = (0 : Byte).toNat ∧
    Answered (scripted [some [0, 0, 0], some [9]])
      [.xfer [0x07, 0xFF, 1] [0, 0, 0], .delay 5, .xfer (rep 0xFF 1) [9]] (.oracle [] 2) ∧
    Answered (scripted [some [0, 0, 0]]) [.xfer [0x07, 0, 0] [0, 0, 0], .delay 5] (.oracle [] 1) :=
  ⟨ready_scripted _, rfl, rfl, rfl, rfl⟩
theorem witness_SendDataChecksAndForwards : (scripted []).Ready ∧ (scripted []).cfg.limits.validBitsMax < (8 : Byte).toNat ∧
    (7 : Byte).toNat ≤ (scripted []).cfg.limits.validBitsMax ∧ ([1] : List Byte) ≠ [] ∧
    (rep 1 260).length ≤ (scripted []).cfg.limits.txMax ∧ (scripted []).cfg.limits.txMax < (rep 1 261).length ∧
    Answered (scripted [some [0, 0, 0]]) [.xfer [0x09, 7, 1] [0, 0, 0], .delay 5] (.oracle [] 1) :=
  ⟨ready_scripted _, by decide, by decide, by decide, by rw [length_rep]; decide, by rw [length_rep]; decide, rfl⟩
theorem witness_ReadDataFetchesItsLength : (scripted []).Ready ∧ (scripted []).cfg.limits.rxMax < (509 : BitVec 9).toNat ∧
    (508 : BitVec 9).toNat ≤ (scripted []).cfg.limits.rxMax ∧ (rep 0 508).length = (508 : BitVec 9).toNat ∧
    ([] : List Byte).length = (0 : BitVec 9).toNat ∧
    Answered (scripted [some [0, 0], some [9]]) [.xfer [0x0A, 0] [0, 0], .delay 5, .xfer (rep 0xFF 1) [9]]
      (.oracle [] 2) :=
  ⟨ready_scripted _, by decide, by decide, by rw [length_rep]; rfl, rfl, rfl⟩
theorem witness_RfCommandsSendTheirParameters :
    Answered (scripted [some [0, 0, 0]]) [.xfer [0x11, 0x0D, 0x8D] [0, 0, 0], .delay 5] (.oracle [] 1) ∧
    Answered (scripted [some [0, 0]]) [.xfer [0x16, 1] [0, 0], .delay 5] (.oracle [] 1) ∧
    Answered (scripted [some [0, 0]]) [.xfer [0x17, 0] [0, 0], .delay 5] (.oracle [] 1) := ⟨rfl, rfl, rfl⟩

/-- Answers for the self test: a discarded reply and a region, four times. -/
def selfTestAnswers : List (Option (List Byte)) :=
  [some [0, 0, 0], some (rep 1 16), some [0, 0, 0], some [2, 2], some [0, 0, 0], some [3, 3], some [0, 0, 0],
   some [4, 4]]

theorem witness_IdentityQueriesReadTheirRegions : (scripted selfTestAnswers).Ready ∧
    (rep 1 16).length = (scripted []).cfg.chip.dieIdLen.toNat ∧
    ([2, 2] : List Byte).length = (scripted []).cfg.chip.versionLen.toNat ∧
    Answered (scripted selfTestAnswers)
      (replyEvents Config.default (.readEeprom 0 16) [0, 0, 0] (rep 1 16) ++
        replyEvents Config.default (.readEeprom 0x10 2) [0, 0, 0] [2, 2] ++
        replyEvents Config.default (.readEeprom 0x12 2) [0, 0, 0] [3, 3] ++
        replyEvents Config.default (.readEeprom 0x14 2) [0, 0, 0] [4, 4]) (.oracle [] 8) :=
  ⟨ready_scripted _, rfl, rfl, rfl⟩
theorem witness_CommandFieldIsSetByMasks :
    Answered (scripted [some (rep 0 6), some (rep 0 6)]) (acquireEvents Config.default (rep 0 6) (rep 0 6))
      (.oracle [] 2) := rfl
/-- The responder half of the same statement. -/
theorem witness_CommandFieldIsSetByMasks_responder : (onChip { reg := [(0, 0x45)] }).Ready ∧
    (onChip { reg := [(0, 0x45)] }).cfg.wf = true ∧
    (onChip { reg := [(0, 0x45)] }).bus = .responder { reg := [(0, 0x45)] } none ∧
    ({ reg := [(0, 0x45)] } : Responder).pending = [] ∧ ({ reg := [(0, 0x45)] } : Responder).reg.wf = true :=
  ⟨ready_onChip _ _, wf_default, rfl, rfl, rfl⟩
theorem witness_PseudoOperationsExpand : State.reset.busy = false ∧ State.reset.cfg.wf = true ∧
    exec .getDieId State.reset = .next (after .getDieId State.reset) := ⟨rfl, wf_default, rfl⟩
theorem witness_ResetAndConfigureSequences :
    Answered (scripted [some (rep 0 6), some (rep 0 6), some [0, 0, 0], some [0, 0], some (rep 0 6)])
      (resetEvents Config.default (rep 0 6) (rep 0 6) ++
        commandEvents Config.default (.loadRfConfig 0x0D 0x8D) [0, 0, 0] ++
        commandEvents Config.default (.rfOn 0) [0, 0] ++ idleEvents Config.default (rep 0 6)) (.oracle [] 5) := rfl

/-- Answers of a bus on which the chip waits to transmit and then holds `rx` received bytes, `r` of them
read. -/
def transceiveAnswers (rf rx r : List Byte) : List (Option (List Byte)) :=
  [some (rep 0 6), some (rep 0 6), some [0, 0], some rf, some (rep 0 5), some [0, 0], some rx, some [0, 0], some r,
   some (rep 0 6)]

/-- Answers of a bus on which the chip waits to transmit and then claims 509 received bytes. -/
def lengthFaultAnswers : List (Option (List Byte)) :=
  [some (rep 0 6), some (rep 0 6), some [0, 0], some [0, 0, 0, 1], some (rep 0 5), some [0, 0],
   some [0xFD, 1, 0, 0], some (rep 0 6)]

/-- The events of the normal path on those answers. -/
def transceiveEvents (rf rx r : List Byte) : List Event :=
  transceiveHead Config.default (rep 0 6) (rep 0 6) [0, 0] rf ++
    transceiveMiddle Config.default [0x01, 0x20, 0x05] (rep 0 5) [0, 0] rx ++
    transceiveTail Config.default [0, 0] r (rep 0 6)

/-- Each of the three paths of the transceive, with its events answered. -/
theorem witness_TransceiveSequencePaths :
    (scripted (transceiveAnswers [0, 0, 0, 1] [1, 0, 0, 0] [0])).Ready ∧ Config.default.wf = true ∧
    tstateOf Config.default (de32 [0, 0, 0, 1]) = .waitTransmit ∧ rxLenOf Config.default (de32 [1, 0, 0, 0]) = 1 ∧
    rxLenOf Config.default (de32 [0xFC, 1, 0, 0]) = Config.default.limits.rxMax ∧
    Config.default.limits.rxMax < rxLenOf Config.default (de32 [0xFD, 1, 0, 0]) ∧
    tstateOf Config.default (de32 [0, 0, 0, 2]) ≠ .waitTransmit ∧
    Answered (scripted (transceiveAnswers [0, 0, 0, 1] [1, 0, 0, 0] [0]))
      (transceiveEvents [0, 0, 0, 1] [1, 0, 0, 0] [0]) (.oracle [] 10) ∧
    Answered (scripted [some (rep 0 6), some (rep 0 6), some [0, 0], some [0, 0, 0, 2], some (rep 0 6)])
      (transceiveHead Config.default (rep 0 6) (rep 0 6) [0, 0] [0, 0, 0, 2] ++ idleEvents Config.default (rep 0 6))
      (.oracle [] 5) ∧
    Answered (scripted lengthFaultAnswers)
      (transceiveHead Config.default (rep 0 6) (rep 0 6) [0, 0] [0, 0, 0, 1] ++
        transceiveMiddle Config.default [0x01, 0x20, 0x05] (rep 0 5) [0, 0] [0xFD, 1, 0, 0] ++
        idleEvents Config.default (rep 0 6)) (.oracle [] 8) :=
  ⟨ready_scripted _, wf_default, by decide, by decide, by decide, by decide, by decide, rfl, rfl, rfl⟩
theorem witness_TransceiveAlwaysReleasesToIdle : (tagged [0]).Ready ∧ (tagged [0]).cfg.wf = true ∧
    rfFrameOf (tagged [0]) (.readSingleBlock 5 none) = some [0x01, 0x20, 0x05] ∧
    rfFrameOf (tagged [0]) (.transceive [1]) = some [1] ∧
    refusalOf (tagged [0]) (.readSingleBlock 5 none) = none ∧
    (after (.readSingleBlock 5 none) (tagged [0])).halt = false ∧
    (after (.readSingleBlock 5 none) (tagged [0])).outcome = .ok ∧
    (after (.transceive [1]) (onChip { forceTstate := some 0 })).outcome = .statePreconditionFailed ∧
    (after (.transceive [1]) (onChip { forceTstate := some 0 })).halt = false ∧
    (scripted lengthFaultAnswers).Ready ∧ refusalOf (scripted lengthFaultAnswers) (.transceive [1]) = none ∧
    (after (.transceive [1]) (scripted lengthFaultAnswers)).outcome = .rxLengthFault ∧
    (after (.transceive [1]) (scripted lengthFaultAnswers)).halt = false :=
  ⟨ready_onChip _ _, wf_default, by decide, by decide, by decide, by decide, by decide, by decide, by decide,
    ready_scripted _, by decide, by decide, by decide⟩
theorem witness_FlagsRegisterOperations : State.reset.Ready := ⟨rfl, rfl⟩

/-- `READ_SINGLE_BLOCK` 5 with one byte received; the other two paths are those of the transceive above. -/
theorem witness_FramedCommandsRunAndClassify :
    rfRequestOf (.readSingleBlock 5 none) = some (.readSingleBlock none 5) ∧
    rfRequestOf (.select (some u)) = some (.select u) ∧
    (scripted (transceiveAnswers [0, 0, 0, 1] [1, 0, 0, 0] [0])).Ready ∧ Config.default.wf = true ∧
    (RfRequest.frame Config.default 0x01 (.readSingleBlock none 5)) = [0x01, 0x20, 0x05] ∧
    ([0x01, 0x20, 0x05] : List Byte).length ≤ Config.default.limits.txMax ∧
    Config.default.limits.txMax <
      (RfRequest.frame Config.default 0x01 (.writeSingleBlock none 0 (rep 0 258))).length ∧
    Answered (scripted (transceiveAnswers [0, 0, 0, 1] [1, 0, 0, 0] [0]))
      (transceiveEvents [0, 0, 0, 1] [1, 0, 0, 0] [0]) (.oracle [] 10) ∧
    opt none = [] ∧ opt (some []) = [] :=
  ⟨rfl, rfl, ready_scripted _, wf_default, rfl, by decide,
    by rw [RfRequest.frame, List.length_append, length_rep]; decide, rfl, rfl, rfl⟩
theorem witness_WarnMarksMalformedWritesOnly : State.reset.busy = false ∧
    exec (.writeSingleBlock 3 [1] none) (onChip {}) = .next (after (.writeSingleBlock 3 [1] none) (onChip {})) ∧
    (after (.writeSingleBlock 3 [1] none) (onChip {})).warn = true := ⟨rfl, rfl, by decide⟩
theorem witness_ClassificationCases : (0x01 : Byte) ≠ Config.default.bytes.noAnswerFlags ∧ (0x01 : Byte) ≠ 0 ∧
    Config.default.bytes.noAnswerFlags ≠ 0 ∧ State.reset.Ready := ⟨by decide, by decide, by decide, rfl, rfl⟩
theorem witness_OperationsWriteTheirRowOnly : exec .getFlags State.reset = .next (after .getFlags State.reset) ∧
    BlockReg.resData ∉ writesOf .getFlags ∧ State.reset.Ready ∧ refusalOf State.reset .inventory ≠ none ∧
    (after (.transceive [1]) { tagged [0] with resCodeValid := true }).outcome = .ok ∧
    (after (.transceive [1]) { tagged [0] with resCodeValid := true }).resCodeValid = true :=
  ⟨rfl, by decide, ⟨rfl, rfl⟩, by decide, by decide, by decide⟩
theorem witness_ChipMemoryFrame : State.reset.cfg.wf = true ∧ (onChip {}).bus = .responder {} none ∧
    ({} : Responder).reg.wf = true ∧
    exec (.writeRegister 1 5) (onChip {}) = .next (after (.writeRegister 1 5) (onChip {})) ∧
    (∀ a ∈ storesTo Config.default (.writeRegister 1 5), (8 : Nat) < regBase a ∨ regBase a + 4 ≤ 8) ∧
    (∀ a ∈ storesTo Config.default (.writeRegister 1 5), (3 : Nat) < regBase a ∨ regBase a + 4 ≤ 3) :=
  ⟨wf_default, rfl, rfl, rfl, by decide, by decide⟩
theorem witness_BusFailureHalts : (scripted [none]).Ready ∧
    exec .rfOff (scripted [none]) = .next halted ∧ halted.halt = true := ⟨ready_scripted _, rfl, by decide⟩
/-- The failed transfer is the first of `RF_OFF`, and the second, a probe, of `READ_REGISTER`. -/
theorem witness_BusFailureHalts_fails :
    (∃ w f q k, planOf .rfOff (scripted [none]) = .go w f q ∧ q.resume [] = some (.xfer [0x17, 0x00] k) ∧
      FailsAfter (scripted [none]) [] [0x17, 0x00] (.oracle [] 1)) ∧
    (∃ w f q k, planOf (.readRegister 0x13) (scripted [some [0, 0], none]) = .go w f q ∧
      q.resume [.xfer [0x04, 0x13] [0, 0], .delay 5] = some (.xfer [0xFF, 0xFF, 0xFF, 0xFF] k) ∧
      FailsAfter (scripted [some [0, 0], none]) [.xfer [0x04, 0x13] [0, 0], .delay 5] [0xFF, 0xFF, 0xFF, 0xFF]
        (.oracle [] 2)) :=
  ⟨⟨_, _, _, _, rfl, rfl, _, rfl, rfl⟩, ⟨_, _, _, _, rfl, rfl, _, rfl, rfl⟩⟩
theorem witness_HaltEndsByResetOnly : halted.busy = false ∧ halted.halt = true ∧ step halted = .next (stepped halted) ∧
    ∀ rest, halted.inputs ≠ .reset :: rest := ⟨rfl, rfl, rfl, fun _ h => by cases h⟩
theorem witness_TransfersAreCommandsOrProbes : State.reset.cfg.wf = true ∧
    exec (.readRegister 0) (onChip {}) = .next (after (.readRegister 0) (onChip {})) ∧
    newEvents (onChip {}) (after (.readRegister 0) (onChip {})) ≠ [] := ⟨wf_default, rfl, by decide⟩

/-- Two buses that differ in the discarded bytes alone. -/
def busA : State := scripted [some [0, 0], some [1, 2, 3, 4]]
def busB : State := scripted [some [8, 9], some [1, 2, 3, 4]]

theorem witness_ResultsDependOnProbeRepliesOnly : busA.cfg.wf = true ∧
    busB = { busA with trace := busB.trace, bus := busB.bus } ∧
    (after (.readRegister 0) busA).halt = false ∧ (after (.readRegister 0) busB).halt = false ∧
    probeReplies busA.cfg (newEvents busA (after (.readRegister 0) busA)) =
      probeReplies busA.cfg (newEvents busB (after (.readRegister 0) busB)) ∧
    newEvents busA (after (.readRegister 0) busA) ≠ newEvents busB (after (.readRegister 0) busB) :=
  ⟨wf_default, rfl, rfl, rfl, by decide, by decide⟩
theorem witness_MinimumDelays : State.reset.cfg = Config.default ∧ (tagged [0]).Ready ∧
    (after (.transceive [1]) (tagged [0])).halt = false ∧ refusalOf (tagged [0]) (.transceive [1]) = none ∧
    rfFrameOf (tagged [0]) (.transceive [1]) = some [1] ∧ rfFrameOf (tagged [0]) .selfTest = none ∧
    refusalOf (tagged [0]) .inventory ≠ none ∧
    totalDelay (after (.transceive [1]) (tagged [0])).trace = 85 ∧
    totalDelay (after (.transceive [1]) (onChip { forceTstate := some 0 })).trace = 20 := ⟨rfl, ready_onChip _ _, by decide⟩
theorem witness_EventStepsRefineTheOperation : State.reset.cfg.wf = true ∧
    (Instr.transceive [1]).wf State.reset.cfg = true ∧ State.reset.busy = false := by decide
theorem inv_busy : busy.Inv := by
  refine ⟨by decide, ?_, ?_, ?_, by decide, ?_, ?_, by decide, by decide, by decide⟩
  · intro h; cases h
  · intro sel h; cases h; rfl
  · intro _; exact ⟨_, rfl, rfl⟩
  · intro h; cases h
  · intro e h; cases h
theorem witness_SequencerCountsEvents : busy.Inv ∧ busy.busy = true := ⟨inv_busy, by decide⟩
theorem witness_FlagsChangeBySetFlagsOrReset :
    ({ State.reset with inputs := [.call [0x20, 0x22]] } : State).Inv ∧
    (stepped { State.reset with inputs := [.call [0x20, 0x22]] }).flags = 0x22 :=
  ⟨{ cfg_wf := by decide, ready := fun _ => ⟨rfl, rfl⟩, latched := fun _ h => (by cases h),
     coherent := fun h => (by cases h), step_le := by decide, halted := fun h => (by cases h),
     events_wf := fun _ h => (by cases h), txf_le := by decide, data_le := by decide, bus_wf := by decide },
   by decide⟩
theorem witness_StepKeepsTheInvariant : busy.Inv ∧ step busy = .next (stepped busy) := ⟨inv_busy, rfl⟩
theorem witness_MachineGoesOn : busy.Inv ∧ busy.Presentable :=
  ⟨inv_busy, fun _ _ h => by rcases h with h | h <;> cases h⟩
theorem witness_ResetInput : ({ busy with inputs := [.reset] } : State).inputs = .reset :: [] ∧
    (stepped { busy with inputs := [.reset] }).busy = false ∧
    (stepped { halted with inputs := [.reset] }).halt = false ∧ halted.busy = false ∧ halted.halt = true := by decide
theorem witness_WrittenRegisterReadsBack : (onChip {}).Ready ∧ (onChip {}).cfg.wf = true ∧
    (onChip {}).bus = .responder {} none ∧ ({} : Responder).pending = [] ∧ ({} : Responder).reg.wf = true ∧
    (onChip {}).cfg.chip.known 0x29 = true ∧ (0x29 : Byte) ≠ (onChip {}).cfg.chip.regRfStatus ∧
    (onChip {}).cfg.chip.known (onChip {}).cfg.chip.regRfStatus = true :=
  ⟨ready_onChip _ _, wf_default, rfl, rfl, rfl, rfl, by decide, rfl⟩
theorem witness_TagAnswerReachesTheHost : (tagged [0, 1]).Ready ∧ (tagged [0, 1]).cfg.wf = true ∧
    (tagged [0, 1]).bus = .responder { tagElse := [0, 1] } none ∧
    rfFrameOf (tagged [0, 1]) (.readSingleBlock 5 none) = some [0x01, 0x20, 0x05] ∧
    refusalOf (tagged [0, 1]) (.readSingleBlock 5 none) = none ∧
    (Responder.answer { tagElse := [0, 1] } [0x01, 0x20, 0x05]).length ≤ (tagged [0, 1]).cfg.limits.rxMax ∧
    (after (.readSingleBlock 5 none) (tagged [0, 1])).resData = [1] :=
  ⟨ready_onChip _ _, wf_default, rfl, rfl, by decide, by decide, by decide⟩
theorem test_reset_memory_form : Memory.wf ({} : Responder).reg = true ∧ Memory.wf ({} : Responder).eeprom = true := by decide

end Sys2Proof.Tests
end

section
/-! SUPPORT. The little-endian conversions (spec 00_scope R11): their bytes and sums as numbers, and the round
trips that follow from these. -/

namespace Sys2Proof

/-- A byte below other bits counts once, the bits above it 256-fold. -/
theorem toNat_append_byte {w : Nat} (x : BitVec w) (b : Byte) :
    (x ++ b).toNat = 256 * x.toNat + b.toNat := by
  rw [BitVec.toNat_append, ← Nat.shiftLeft_add_eq_or_of_lt b.isLt, Nat.shiftLeft_eq]
  omega

/-- A byte is known by its value. -/
theorem bytes_eq_of_map_toNat_eq {s t : List Byte} (h : s.map BitVec.toNat = t.map BitVec.toNat) : s = t :=
  List.map_injective_iff.mpr (fun _ _ => BitVec.eq_of_toNat_eq) h

/-! ### Bytes and sums -/

theorem le32_toNat (v : Word) : (le32 v).map BitVec.toNat =
    [v.toNat % 256, v.toNat / 256 % 256, v.toNat / 65536 % 256, v.toNat / 16777216] := by
  have hv := v.isLt
  simp only [le32, List.map_cons, List.map_nil, BitVec.extractLsb'_toNat, Nat.shiftRight_eq_div_pow,
    List.cons.injEq, and_true, true_and]
  omega

theorem de32_toNat (b0 b1 b2 b3 : Byte) : (de32 [b0, b1, b2, b3]).toNat =
    b0.toNat + 256 * b1.toNat + 65536 * b2.toNat + 16777216 * b3.toNat := by
  simp only [de32, List.getD_cons_zero, List.getD_cons_succ, toNat_append_byte]
  omega

theorem le16_toNat (v : BitVec 16) : (le16 v).map BitVec.toNat = [v.toNat % 256, v.toNat / 256] := by
  have hv := v.isLt
  simp only [le16, List.map_cons, List.map_nil, BitVec.extractLsb'_toNat, Nat.shiftRight_eq_div_pow,
    List.cons.injEq, and_true]
  omega

theorem de16_toNat (b0 b1 : Byte) : (de16 [b0, b1]).toNat = b0.toNat + 256 * b1.toNat := by
  simp only [de16, List.getD_cons_zero, List.getD_cons_succ, toNat_append_byte]
  omega

/-! ### Round trips -/

theorem le32_de32 {s : List Byte} (hs : s.length = 4) : le32 (de32 s) = s := by
  obtain ⟨b0, b1, b2, b3, rfl⟩ := List.length_eq_four.mp hs
  have h0 := b0.isLt
  have h1 := b1.isLt
  have h2 := b2.isLt
  have h3 := b3.isLt
  apply bytes_eq_of_map_toNat_eq
  simp only [le32_toNat, de32_toNat, List.map_cons, List.map_nil, List.cons.injEq, and_true]
  omega

theorem le32_injective : Function.Injective le32 := by
  intro v w h
  have := le32_toNat v
  rw [h, le32_toNat] at this
  simp only [List.cons.injEq, and_true] at this
  bv_omega

@[simp] theorem de32_le32 (v : Word) : de32 (le32 v) = v := le32_injective (le32_de32 rfl)

theorem le16_de16 {s : List Byte} (hs : s.length = 2) : le16 (de16 s) = s := by
  obtain ⟨b0, b1, rfl⟩ := List.length_eq_two.mp hs
  have h0 := b0.isLt
  have h1 := b1.isLt
  apply bytes_eq_of_map_toNat_eq
  simp only [le16_toNat, de16_toNat, List.map_cons, List.map_nil, List.cons.injEq, and_true]
  omega

theorem le16_injective : Function.Injective le16 := by
  intro v w h
  have := le16_toNat v
  rw [h, le16_toNat] at this
  simp only [List.cons.injEq, and_true] at this
  bv_omega

@[simp] theorem de16_le16 (v : BitVec 16) : de16 (le16 v) = v := le16_injective (le16_de16 rfl)

/-- Settles O1: every conversion through the values of its bytes, and the round trips from these. -/
theorem littleEndianConversions : Obligations.LittleEndianConversions :=
  ⟨le32_toNat, de32_toNat, le16_toNat, de16_toNat, de32_le32, fun _ => le32_de32, de16_le16, fun _ => le16_de16⟩

end Sys2Proof
end

section
/-! SUPPORT. What a step adds to the trace, and that it keeps the parameters (spec 00_scope R13, R20; 20_memory
R80), function by function from the final writes of an operation up to `step`. -/

namespace Sys2Proof.Machine

/-! ### Growth of the trace -/

/-- From `s` to `t` the trace has grown by at most `n` events, at its end, and the parameters are the same. -/
def State.Grows (n : Nat) (s t : State) : Prop :=
  (∃ es, t.trace = s.trace ++ es ∧ es.length ≤ n) ∧ t.cfg = s.cfg

theorem State.grows_of_append {s t : State} {es : List Event} {n : Nat} (ht : t.trace = s.trace ++ es)
    (hn : es.length ≤ n) (hc : t.cfg = s.cfg) : s.Grows n t := ⟨⟨es, ht, hn⟩, hc⟩

theorem State.grows_of_same {s t : State} {n : Nat} (ht : t.trace = s.trace) (hc : t.cfg = s.cfg) :
    s.Grows n t := grows_of_append (es := []) (by simpa using ht) (Nat.zero_le n) hc

theorem State.Grows.mono {s t : State} {m n : Nat} (h : s.Grows m t) (hmn : m ≤ n) : s.Grows n t := by
  obtain ⟨⟨es, ht, hm⟩, hc⟩ := h
  exact grows_of_append ht (hm.trans hmn) hc

theorem State.Grows.trans {s t u : State} {m n : Nat} (h : s.Grows m t) (h' : t.Grows n u) :
    s.Grows (m + n) u := by
  obtain ⟨⟨es, ht, hm⟩, hc⟩ := h
  obtain ⟨⟨es', hu, hn⟩, hc'⟩ := h'
  exact grows_of_append (es := es ++ es') (by rw [hu, ht, List.append_assoc])
    (by rw [List.length_append]; exact Nat.add_le_add hm hn) (hc'.trans hc)

/-! ### One event -/

theorem State.event_grows (s : State) (e : Event) : s.Grows 1 (s.event e) :=
  grows_of_append (event_trace s e) (Nat.le_refl 1) (event_cfg s e)

theorem State.finish_grows (s : State) (f : Finish) : s.Grows 0 (s.finish f) :=
  grows_of_same (by simp) (by simp)

/-- A transfer is one event; a failed one leaves none (R253). -/
theorem State.transfer_grows (s : State) (sent : List Byte) : s.Grows 1 (s.transfer sent).2 := by
  rcases ht : Bus.transfer s.cfg s.trace sent s.bus with ⟨_ | reply, b⟩
  · rw [transfer_none ht]
    exact grows_of_same rfl rfl
  · rw [transfer_some ht]
    exact event_grows { s with bus := b } _

/-- Completion adds no event. -/
theorem Sequence.settle_grows (q : Sequence) (s : State) : s.Grows 0 (q.settle s) := by
  cases q with
  | done f => exact s.finish_grows f
  | delay ms k => exact State.grows_of_same rfl rfl
  | xfer sent k => exact State.grows_of_same rfl rfl

theorem Sequence.once_grows (q : Sequence) (s : State) : s.Grows 1 (q.once s) := by
  cases q with
  | done f => exact (s.finish_grows f).mono (Nat.zero_le 1)
  | delay ms k => exact (s.event_grows _).trans (k.settle_grows _)
  | xfer sent k =>
    have h := s.transfer_grows sent
    rw [Sequence.once]
    rcases ht : s.transfer sent with ⟨_ | reply, t⟩ <;> rw [ht] at h
    · exact h
    · exact h.trans ((k reply).settle_grows t)

/-! ### Requests -/

/-- What acceptance leads to, said once: a refusal, or the operation's sequence about to begin (R259). -/
theorem State.examine_cases (s : State) (i : Instr) (plan : State → Plan) :
    (∃ r, s.examine i plan = .closed ((s.accept i).refuse r)) ∨
    (∃ w f q, s.examine i plan = .running q (s.started i w f)) := by
  unfold State.examine
  dsimp only
  split
  · exact .inl ⟨.halted, rfl⟩
  · split
    · next r _ => exact .inl ⟨r, rfl⟩
    · next w f q _ => exact .inr ⟨w, f, q, rfl⟩

/-- Acceptance adds no event, even of an operation that completes at once (R200, R240). -/
theorem beginRequest_grows (i : Instr) (plan : State → Plan) (s : State) :
    s.Grows 0 (beginRequest i plan s) := by
  unfold beginRequest
  split
  · exact State.grows_of_same rfl rfl
  · obtain ⟨r, h⟩ | ⟨w, f, q, h⟩ := s.examine_cases i plan
    · rw [h]
      exact State.grows_of_same rfl rfl
    · rw [h]
      exact q.settle_grows (s.started i w f)

theorem rejectSelector_grows (b : Byte) (s : State) : s.Grows 0 (rejectSelector b s) := by
  unfold rejectSelector
  dsimp only
  split
  · exact State.grows_of_same rfl rfl
  · split <;> exact State.grows_of_same rfl rfl

/-- An operation produces its own events, of which there are at most 18, or those before a failed transfer. -/
theorem exec_grows {i : Instr} {s t : State} (h : exec i s = .next t) : s.Grows 18 t := by
  obtain ⟨-, he⟩ | ⟨-, -, he⟩ | ⟨-, r, -, he⟩ | ⟨-, w, f, q, es, b, fin, hp, hq, -, he⟩ |
    ⟨-, w, f, q, es, b, sent, k, hp, hq, -, he⟩ := exec_cases i s <;>
    obtain rfl := Host.Outcome.next.inj (he.symm.trans h)
  · exact State.grows_of_same rfl rfl
  · exact State.grows_of_same rfl rfl
  · exact State.grows_of_same rfl rfl
  · have hes := (Sequence.within_resume (planOf_within hp) hq).1
    exact (State.grows_of_append rfl hes rfl : s.Grows 18 ((s.started i w f).after es b)).trans
      (State.finish_grows _ fin)
  · have hes := (Sequence.within_resume (planOf_within hp) hq).1
    exact State.grows_of_append rfl hes rfl

/-! ### A step -/

theorem advance_grows {s t : State} (h : advance s = .next t) : s.Grows 1 t := by
  unfold advance at h
  split at h
  · split at h
    · next q _ =>
      obtain rfl := Host.Outcome.next.inj h
      exact q.once_grows s
    · cases h
  · obtain rfl := Host.Outcome.next.inj h
    exact State.grows_of_same rfl rfl

theorem request_grows {wait : Bool} {bytes : List Byte} {s t : State}
    (h : request wait bytes s = .next t) : s.Grows 18 t := by
  unfold request at h
  split at h
  · obtain rfl := Host.Outcome.next.inj h
    exact State.grows_of_same rfl rfl
  · split at h
    · next i _ _ =>
      cases wait with
      | true => exact exec_grows h
      | false =>
        obtain rfl := Host.Outcome.next.inj h
        exact (beginRequest_grows i (planOf i) s).mono (Nat.zero_le 18)
    · next b _ =>
      obtain rfl := Host.Outcome.next.inj h
      exact (rejectSelector_grows b s).mono (Nat.zero_le 18)
    · cases h

/-- Every step adds at most the 18 events of a whole operation (R26); taking an input is no event. -/
theorem step_grows {s t : State} (h : step s = .next t) : s.Grows 18 t := by
  unfold step takeInput at h
  split at h
  · exact (advance_grows h).mono (by decide)
  · next rest _ => exact (advance_grows (s := { s with inputs := rest }) h).mono (by decide)
  · obtain rfl := Host.Outcome.next.inj h
    exact State.grows_of_same rfl rfl
  · next bytes rest _ => exact request_grows (s := { s with inputs := rest }) h
  · next bytes rest _ => exact request_grows (s := { s with inputs := rest }) h

/-- Settles O40, by what each of the five inputs does. -/
theorem traceGrowsAndParametersStay : Obligations.TraceGrowsAndParametersStay := fun _ _ h => step_grows h

end Sys2Proof.Machine
end

section
/-! SUPPORT. The request port's bytes (spec 30_encoding R121; log 5): what each reader of an operand takes from
the bytes of that operand, and every operation read back from its bytes. -/

namespace Sys2Proof

@[simp] theorem andThen_ok {α β : Type} (a : α) (bs : List Byte) (k : α → List Byte → Parsed β) :
    andThen (.ok (a, bs)) k = k a bs := rfl

/-! ### One operand -/

@[simp] theorem takeByte_cons (b : Byte) (bs : List Byte) : takeByte (b :: bs) = .ok (b, bs) := rfl

@[simp] theorem takeWord_le32 (v : Word) (bs : List Byte) : takeWord (le32 v ++ bs) = .ok (v, bs) := by
  have h : takeWord (le32 v ++ bs) = .ok (de32 (le32 v), bs) := rfl
  rw [h, de32_le32]

theorem takeHalf_le16 (v : BitVec 16) (bs : List Byte) : takeHalf (le16 v ++ bs) = .ok (v, bs) := by
  have h : takeHalf (le16 v ++ bs) = .ok (de16 (le16 v), bs) := rfl
  rw [h, de16_le16]

theorem takeBytes_append (u bs : List Byte) : takeBytes u.length (u ++ bs) = .ok (u, bs) := by
  simp [takeBytes]

theorem seqWf_iff (u : List Byte) : seqWf u = true ↔ u.length ≤ 65535 := decide_eq_true_iff

/-- A sequence that the length field can name is read back. -/
theorem takeSeq_seqBytes {u : List Byte} (hu : seqWf u = true) (bs : List Byte) :
    takeSeq (seqBytes u ++ bs) = .ok (u, bs) := by
  have hlen := (seqWf_iff u).mp hu
  have hnat : (BitVec.ofNat 16 u.length).toNat = u.length := by rw [BitVec.toNat_ofNat]; omega
  simp only [takeSeq, seqBytes, List.append_assoc, takeHalf_le16, hnat, takeBytes_append]

/-- The nine bits of `len` are read back from their two bytes. -/
@[simp] theorem takeLen_le16 (len : BitVec 9) (bs : List Byte) :
    takeLen (le16 (len.setWidth 16) ++ bs) = .ok (len, bs) := by
  have hlt : (len.setWidth 16).toNat < 512 := by have := len.isLt; bv_omega
  have hback : (len.setWidth 16).setWidth 9 = len := by bv_omega
  simp only [takeLen, takeHalf_le16, if_pos hlt, hback]

/-- An identifier's length fits its byte and is not 0, the length that stands for absence (R220, log 18). -/
theorem Config.uidLen_bounds {c : Config} (h : c.wf = true) : 0 < c.limits.uidLen ∧ c.limits.uidLen < 256 := by
  simp only [Config.wf, Bool.and_eq_true, decide_eq_true_eq] at h
  tauto

/-- An identifier the port can carry is read back. -/
theorem takeUid_uidBytes {c : Config} (hc : c.wf = true) {uid : Uid} (hu : uid.wf c = true) (bs : List Byte) :
    takeUid c (uidBytes uid ++ bs) = .ok (uid, bs) := by
  cases uid with
  | none => rfl
  | some u =>
    have hlen : u.length = c.limits.uidLen := by simpa [Uid.wf] using hu
    obtain ⟨hpos, hlt⟩ := Config.uidLen_bounds hc
    have hnat : (BitVec.ofNat 8 u.length).toNat = u.length := by rw [BitVec.toNat_ofNat]; omega
    simp only [uidBytes, List.cons_append, takeUid, hnat, takeBytes_append]
    rw [if_neg (by omega), if_pos hlen]

theorem Config.rxMax_lt {c : Config} (h : c.wf = true) : c.limits.rxMax < 65536 := by
  simp only [Config.wf, Bool.and_eq_true, decide_eq_true_eq] at h
  tauto

/-! ### An operation -/

/-- The operands of every operation the port can carry are read back, whatever follows them: an equation per
form of operands, each from the readers of its operands in their order. -/
theorem decodeOperands_encodeOperands {c : Config} (hc : c.wf = true) {i : Instr} (hi : i.wf c = true)
    (bs : List Byte) : decodeOperands c i.selector (encodeOperands i ++ bs) = .ok (i, bs) := by
  have uid : ∀ {u : Uid}, u.wf c = true → takeUid c (uidBytes u ++ bs) = .ok (u, bs) := fun hu =>
    takeUid_uidBytes hc hu bs
  cases i
  case sendData vb payload | transceive payload =>
    simp [Instr.selector, encodeOperands, decodeOperands, takeSeq_seqBytes hi]
  case readSingleBlock | select | resetToReady | lockAfi | lockDsfid | writeAfi | writeDsfid
    | getSystemInformation | getMultipleBlockSecurityStatus =>
    simp [Instr.selector, encodeOperands, decodeOperands, uid hi]
  case writeSingleBlock blk data u | custom code mfg data u =>
    obtain ⟨hd, hu⟩ : seqWf data = true ∧ u.wf c = true := by simpa [Instr.wf] using hi
    simp [Instr.selector, encodeOperands, decodeOperands, takeSeq_seqBytes hd, uid hu]
  case classify flags data =>
    have hlen : data.length ≤ c.limits.rxMax := by simpa [Instr.wf] using hi
    have hd : seqWf data = true := (seqWf_iff data).mpr (by have := Config.rxMax_lt hc; omega)
    simp [Instr.selector, encodeOperands, decodeOperands, takeSeq_seqBytes hd, hlen]
  all_goals simp [Instr.selector, encodeOperands, decodeOperands]

/-- Settles O2: the selector byte names the operation, and its operands are read back. -/
theorem requestBytesDecodeToTheirOperation : Obligations.RequestBytesDecodeToTheirOperation := by
  intro c i extra hc hi
  simp only [encode, List.cons_append, decodeRequest, Selector.ofCode_code (Config.hop_nodup hc)]
  exact decodeOperands_encodeOperands hc hi extra

end Sys2Proof
end

section
/-! SUPPORT. A request accepted and not waited for, and a whole step, each said once; and what follows from
these for every operation: acceptance, the bound on its events, `WARN`, the halted block. -/

namespace Sys2Proof.Machine

/-! ### Acceptance -/

theorem accept_eq (i : Instr) (s : State) : accept i s = .next (beginRequest i (planOf i) s) := rfl

theorem accept_halted {i : Instr} {s : State} (hb : s.busy = false) (hh : s.halt = true) :
    accept i s = .next ((s.accept i).refuse .halted) := by
  simp [accept_eq, beginRequest, hb, State.examine, hh]

theorem accept_refuse {i : Instr} {s : State} {r : Reason} (h : s.Ready) (hp : planOf i s = .refuse r) :
    accept i s = .next ((s.accept i).refuse r) := by
  have hplan : planOf i (s.accept i) = .refuse r := by rw [← hp]; exact planOf_congr i rfl rfl
  simp [accept_eq, beginRequest, h.1, State.examine, h.2, hplan]

theorem accept_go {i : Instr} {s : State} {w : Bool} {f : List Byte} {q : Sequence} (h : s.Ready)
    (hp : planOf i s = .go w f q) : accept i s = .next (q.settle (s.started i w f)) := by
  have hplan : planOf i (s.accept i) = .go w f q := by rw [← hp]; exact planOf_congr i rfl rfl
  simp [accept_eq, beginRequest, h.1, State.examine, h.2, hplan, State.started]

/-- What acceptance can do on a block that is not busy, said once: a refusal for being halted; a refusal of the
operation's own; its sequence begun, and completed if it has no events. -/
theorem accept_cases (i : Instr) {s : State} (hb : s.busy = false) :
    (s.halt = true ∧ accept i s = .next ((s.accept i).refuse .halted)) ∨
    (s.Ready ∧ ∃ r, planOf i s = .refuse r ∧ accept i s = .next ((s.accept i).refuse r)) ∨
    (s.Ready ∧ ∃ w f q, planOf i s = .go w f q ∧ accept i s = .next (q.settle (s.started i w f))) := by
  cases hh : s.halt with
  | true => exact .inl ⟨rfl, accept_halted hb hh⟩
  | false =>
    have h : s.Ready := ⟨hb, hh⟩
    cases hp : planOf i s with
    | refuse r => exact .inr (.inl ⟨h, r, rfl, accept_refuse h hp⟩)
    | go w f q => exact .inr (.inr ⟨h, w, f, q, rfl, accept_go h hp⟩)

/-- Settles O9: the state in which the sequence begins is the one acceptance leaves. -/
theorem acceptanceLatchesAndStarts : Obligations.AcceptanceLatchesAndStarts := by
  intro i s w f q h hp hu
  obtain ⟨hinstr, hop⟩ := Laws.Latched.all i s.cfg.hop s.latches
  refine ⟨s.started i w f, by rw [accept_go h hp, Sequence.settle_unfinished hu], rfl, rfl, hop, hinstr, rfl, rfl,
    rfl, State.current_started hp, rfl, fun r => ?_⟩
  cases r <;> rfl

/-! ### A step -/

theorem advance_ready {s : State} (hb : s.busy = false) : advance s = .next s := by simp [advance, hb]

/-- A selector that names no operation is refused, for being halted if the block is (R122, R259). -/
theorem rejectSelector_ready (b : Byte) {s : State} (hb : s.busy = false) :
    rejectSelector b s = (s.acceptSelector b).refuse (if s.halt then .halted else .badSelector) := by
  cases hh : s.halt <;> simp [rejectSelector, hb, hh]

/-- What request bytes at the port can do, said once: nothing while busy; the operation they decode to, run or
accepted; the refusal of a selector that names none. -/
theorem request_cases {wait : Bool} {bytes : List Byte} {s t : State} (h : request wait bytes s = .next t) :
    (s.busy = true ∧ t = s) ∨
    (s.busy = false ∧ ∃ i extra, decodeRequest s.cfg bytes = .ok (i, extra) ∧
      (exec i s = .next t ∨ accept i s = .next t)) ∨
    (s.busy = false ∧ ∃ b, t = (s.acceptSelector b).refuse (if s.halt then .halted else .badSelector)) := by
  unfold request at h
  split at h
  · next hb => exact .inl ⟨hb, (Host.Outcome.next.inj h).symm⟩
  · next hb =>
    have hb : s.busy = false := Bool.eq_false_iff.mpr hb
    split at h
    · next i extra hd =>
      refine .inr (.inl ⟨hb, i, extra, hd, ?_⟩)
      cases wait with
      | true => exact .inl h
      | false => exact .inr h
    · next b _ => exact .inr (.inr ⟨hb, b, by rw [← Host.Outcome.next.inj h, rejectSelector_ready b hb]⟩)
    · cases h

/-- What a step can do, said once: the reset input; time for one event; a request. Taking the input from the
queue changes nothing else. -/
theorem step_cases {s t : State} (h : step s = .next t) :
    (∃ rest, s.inputs = .reset :: rest ∧ t = State.blockReset { s with inputs := rest }) ∨
    (∃ rest, advance { s with inputs := rest } = .next t) ∨
    (∃ wait bytes rest, (s.inputs = .call bytes :: rest ∨ s.inputs = .present bytes :: rest) ∧
      request wait bytes { s with inputs := rest } = .next t) := by
  unfold step takeInput at h
  split at h
  · next hin => exact .inr (.inl ⟨[], by rw [← hin]; exact h⟩)
  · next rest _ => exact .inr (.inl ⟨rest, h⟩)
  · next rest hin => exact .inl ⟨rest, hin, (Host.Outcome.next.inj h).symm⟩
  · next bytes rest hin => exact .inr (.inr ⟨true, bytes, rest, .inl hin, h⟩)
  · next bytes rest hin => exact .inr (.inr ⟨false, bytes, rest, .inr hin, h⟩)

/-! ### Every operation, every state -/

/-- Settles O14: each of the ways an operation ends leaves the sequencer ready. -/
theorem everyOperationEndsReadyWithinEighteenEvents :
    Obligations.EveryOperationEndsReadyWithinEighteenEvents := by
  intro i s hb
  have ends : ∃ t, exec i s = .next t ∧ t.seq = SeqReg.ready := by
    obtain ⟨hb', -⟩ | ⟨-, -, he⟩ | ⟨-, r, -, he⟩ | ⟨-, w, f, q, es, b, fin, -, -, -, he⟩ |
      ⟨-, w, f, q, es, b, sent, k, -, -, -, he⟩ := exec_cases i s
    · rw [hb] at hb'; cases hb'
    all_goals exact ⟨_, he, rfl⟩
  obtain ⟨t, he, ht⟩ := ends
  exact ⟨t, he, State.busy_ready ht, ht, (exec_grows he).1⟩

theorem malformedOf_iff (c : Config) (i : Instr) : malformedOf c i = true ↔
    ∃ blk data uid, i = .writeSingleBlock blk data uid ∧ data.length ≠ c.limits.blockLen := by
  cases i <;> simp [malformedOf]

/-- Settles O29: a refusal leaves `WARN` cleared, and a sequence keeps the warning its plan raised. -/
theorem warnMarksMalformedWritesOnly : Obligations.WarnMarksMalformedWritesOnly := by
  intro i s t hb h
  have ran : ∀ {w f q}, s.Ready → planOf i s = .go w f q → t.warn = w →
      (t.warn = true ↔ ∃ blk data uid, i = .writeSingleBlock blk data uid ∧
        data.length ≠ s.cfg.limits.blockLen ∧ s.halt = false ∧ refusalOf s i = none) := by
    intro w f q hr hp ht
    rw [ht, (planOf_frame hp).1, malformedOf_iff]
    simp [hr.2, refusalOf_of_go hp]
  obtain ⟨hb', -⟩ | ⟨-, hh, he⟩ | ⟨-, r, hp, he⟩ | ⟨hr, w, f, q, es, b, fin, hp, -, -, he⟩ |
    ⟨hr, w, f, q, es, b, sent, k, hp, -, -, he⟩ := exec_cases i s
  · rw [hb] at hb'; cases hb'
  all_goals obtain rfl := Host.Outcome.next.inj (he.symm.trans h)
  · simp [hh]
  · simp [(planOf_refuse_iff i s r).mp hp]
  · exact ran hr hp (State.results_warn _ fin)
  · exact ran hr hp rfl

/-- Settles O36: without the reset input a halted block can only wait or refuse as `HALTED`. -/
theorem haltEndsByResetOnly : Obligations.HaltEndsByResetOnly := by
  intro s t hb hh h hreset
  obtain ⟨rest, hin, -⟩ | ⟨rest, ha⟩ | ⟨wait, bytes, rest, -, hq⟩ := step_cases h
  · exact absurd hin (hreset rest)
  · rw [advance_ready (s := { s with inputs := rest }) hb] at ha
    obtain rfl := Host.Outcome.next.inj ha
    exact ⟨hh, hb, rfl, rfl, rfl⟩
  · obtain ⟨hb', -⟩ | ⟨-, i, extra, -, he | he⟩ | ⟨-, b, rfl⟩ := request_cases hq
    · exact absurd (hb.symm.trans hb') (by decide)
    · rw [exec_eq, perform_halted (s := { s with inputs := rest }) hb hh] at he
      obtain rfl := Host.Outcome.next.inj he
      exact ⟨hh, rfl, rfl, rfl, rfl⟩
    · rw [accept_halted (s := { s with inputs := rest }) hb hh] at he
      obtain rfl := Host.Outcome.next.inj he
      exact ⟨hh, rfl, rfl, rfl, rfl⟩
    · exact ⟨hh, rfl, by simp [hh], rfl, rfl⟩

end Sys2Proof.Machine
end

section
/-! SUPPORT. Values that the spec fixes: reset (spec 10_state R55) and the fields of chip registers (R40, R43,
R44). -/

namespace Sys2Proof.Machine

/-- Settles O48: the state after reset, field by field. -/
theorem resetValues : Obligations.ResetValues :=
  ⟨rfl, rfl, rfl, rfl, rfl, rfl, rfl, rfl, rfl, rfl, rfl, rfl⟩

theorem known_default_iff (a : Byte) :
    Config.default.chip.known a = true ↔ (a.toNat ≤ 0x29 ∨ a.toNat = 0x39) := by
  simp [ChipMap.known, Config.default, BitVec.le_def, ← BitVec.toNat_inj]

/-- Settles O49: addresses by their values, the two fields as the bits they are. -/
theorem chipRegisterFields : Obligations.ChipRegisterFields := by
  refine ⟨known_default_iff, by decide, by decide, fun v => rfl, fun v => ?_⟩
  show v.toNat % 2 ^ 9 = (v.extractLsb' 0 9).toNat
  rw [BitVec.extractLsb'_toNat, Nat.shiftRight_zero]

end Sys2Proof.Machine
end

section
/-! SUPPORT. Which block registers an operation writes (spec 10_state R28): its final writes by kind, and where
`FLAGS` can change. -/

namespace Sys2Proof.Machine

/-! ### The final writes by kind -/

theorem BlockReg.same_refl (r : BlockReg) (s : State) : r.same s s := by cases r <;> rfl

theorem BlockReg.same_trans {r : BlockReg} {s t u : State} (h : r.same s t) (h' : r.same t u) : r.same s u := by
  cases r <;> exact Eq.trans h' h

/-- The block registers that the final writes of a kind may change. -/
def Finish.writes : Finish → List BlockReg
  | .ok => []
  | .value _ => [.resValue]
  | .data _ => [.resData]
  | .exchange _ => [.resFlags, .resData, .resCodeValid]
  | .framed _ => [.resFlags, .resData, .resCode, .resCodeValid]
  | .setFlags _ => [.flags]
  | .flagsOut => [.resFlagsOut]
  | .classified _ _ => [.resCode, .resCodeValid]

/-- On each of its paths a framed command writes the exchange, and outcome, code and its validity (R202). -/
theorem State.results_framed (s : State) (e : Exchange) : ∃ o k v, s.results (.framed e) =
    { s.writeExchange e with outcome := o, resCode := k, resCodeValid := v } := by
  by_cases h : e.outcome = .ok
  · exact ⟨_, _, _, if_pos h⟩
  · exact ⟨_, _, _, if_neg h⟩

/-- Every other register is as before. -/
theorem State.finish_same (s : State) {f : Finish} {r : BlockReg} (h : r ∉ f.writes) : r.same s (s.finish f) := by
  cases r with
  | cfg | inputs | trace | bus | halt | resReason => simp [BlockReg.same]
  | flags | resFlags | resData | resValue | resCode | resCodeValid | resFlagsOut =>
    cases f
    case framed e =>
      obtain ⟨o, k, v, he⟩ := s.results_framed e
      simp_all [Finish.writes, BlockReg.same]
    all_goals simp_all [Finish.writes, BlockReg.same, results]

/-- The final writes of an operation are in its row of R28. -/
theorem writes_subset_writesOf {c : Config} {i : Instr} {f : Finish} (h : endsOf c i f) : f.writes ⊆ writesOf i := by
  cases i
  case transceive => obtain ⟨e, rfl, -⟩ := h; simp [Finish.writes, writesOf]
  case readSingleBlock | writeSingleBlock | select | resetToReady | lockAfi | lockDsfid | writeAfi | writeDsfid
    | getSystemInformation | getMultipleBlockSecurityStatus | custom =>
    obtain ⟨e, rfl, -⟩ := h
    simp [Finish.writes, writesOf]
  case readRegister | readEeprom | readData | selfTest | getDieId | getProductVersion | getFirmwareVersion
    | getEepromVersion =>
    obtain ⟨d, rfl⟩ := h
    simp [Finish.writes, writesOf]
  case inventory | writeMultipleBlocks | customWriteSingle => exact h.elim
  all_goals obtain rfl := h; simp [Finish.writes, writesOf]

/-! ### The row of an operation -/

/-- A complete sequence has no events to resume after. -/
theorem Sequence.resume_done_iff {f : Finish} {es : List Event} {q : Sequence} :
    (Sequence.done f).resume es = some q ↔ es = [] ∧ q = .done f := by
  cases es <;> simp [resume, eq_comm]

/-- An operation whose row has not the trace uses no bus: its sequence is complete from the start. -/
theorem planOf_done_of_quiet {i : Instr} {s : State} {w : Bool} {f : List Byte} {q : Sequence}
    (h : planOf i s = .go w f q) (hq : BlockReg.trace ∉ writesOf i) : ∃ fin, q = .done fin := by
  cases i
  case setFlags | getFlags | classify => cases h; exact ⟨_, rfl⟩
  case inventory | writeMultipleBlocks | customWriteSingle => cases h
  all_goals simp [writesOf] at hq

/-- The row of an operation has trace, bus and `HALT` together or none of them. -/
theorem mem_writesOf_of_trace {i : Instr} (h : BlockReg.trace ∈ writesOf i) :
    BlockReg.bus ∈ writesOf i ∧ BlockReg.halt ∈ writesOf i := by
  cases i <;> simp [writesOf] at h ⊢

theorem resReason_mem_writesOf (i : Instr) : BlockReg.resReason ∈ writesOf i := by
  cases i <;> simp [writesOf]

/-- The answered events of an operation's sequence change trace and bus, and these only if its row has them. -/
theorem after_same {i : Instr} {s : State} {w : Bool} {f : List Byte} {q q' : Sequence} {es : List Event} {b : Bus}
    (hp : planOf i s = .go w f q) (hq : q.resume es = some q') (ha : Answered s es b) {r : BlockReg}
    (hr : r ∉ writesOf i) : r.same s ((s.started i w f).after es b) := by
  by_cases ht : BlockReg.trace ∈ writesOf i
  · obtain ⟨hbus, -⟩ := mem_writesOf_of_trace ht
    cases r with
    | trace => exact absurd ht hr
    | bus => exact absurd hbus hr
    | _ => rfl
  · obtain ⟨fin, rfl⟩ := planOf_done_of_quiet hp ht
    obtain ⟨rfl, -⟩ := Sequence.resume_done_iff.mp hq
    obtain rfl := answered_nil.mp ha
    cases r with
    | trace => exact List.append_nil s.trace
    | _ => rfl

/-- A failed transfer adds `HALT` to that: only an operation with events has transfers (R253). -/
theorem afterFailure_same {i : Instr} {s : State} {w : Bool} {f : List Byte} {q : Sequence} {es : List Event}
    {b : Bus} {sent : List Byte} {k : List Byte → Sequence} (hp : planOf i s = .go w f q)
    (hq : q.resume es = some (.xfer sent k)) {r : BlockReg} (hr : r ∉ writesOf i) :
    r.same s (s.afterFailure i w es b) := by
  by_cases ht : BlockReg.trace ∈ writesOf i
  · obtain ⟨hbus, hhalt⟩ := mem_writesOf_of_trace ht
    cases r with
    | trace => exact absurd ht hr
    | bus => exact absurd hbus hr
    | halt => exact absurd hhalt hr
    | _ => rfl
  · obtain ⟨fin, rfl⟩ := planOf_done_of_quiet hp ht
    cases (Sequence.resume_done_iff.mp hq).2

theorem refuse_same (s : State) (i : Instr) (reason : Reason) {r : BlockReg} (hr : r ≠ .resReason) :
    r.same s ((s.accept i).refuse reason) := by
  cases r with
  | resReason => exact absurd rfl hr
  | _ => rfl

/-- An operation writes the registers of its row and no other (R28). -/
theorem exec_same {i : Instr} {s t : State} (h : exec i s = .next t) {r : BlockReg} (hr : r ∉ writesOf i) :
    r.same s t := by
  have hreason : r ≠ .resReason := fun he => hr (he ▸ resReason_mem_writesOf i)
  obtain ⟨-, he⟩ | ⟨-, -, he⟩ | ⟨-, reason, -, he⟩ | ⟨-, w, f, q, es, b, fin, hp, hq, ha, he⟩ |
    ⟨-, w, f, q, es, b, sent, k, hp, hq, -, he⟩ := exec_cases i s <;>
    obtain rfl := Host.Outcome.next.inj (he.symm.trans h)
  · exact r.same_refl s
  · exact refuse_same s i .halted hreason
  · exact refuse_same s i reason hreason
  · have hends := Sequence.ends_of_resume (planOf_ends hp) hq
    exact BlockReg.same_trans (after_same hp hq ha hr)
      (State.finish_same _ fun hm => hr (writes_subset_writesOf hends hm))
  · exact afterFailure_same hp hq hr

/-- A raw `TRANSCEIVE` writes `RES_CODE_VALID` on a failed precondition alone (D20, log 26). -/
theorem transceive_resCodeValid {frame : List Byte} {s t : State} (h : exec (.transceive frame) s = .next t)
    (ho : t.outcome ≠ .statePreconditionFailed) : t.resCodeValid = s.resCodeValid := by
  obtain ⟨-, he⟩ | ⟨-, -, he⟩ | ⟨-, reason, -, he⟩ | ⟨-, w, f, q, es, b, fin, hp, hq, -, he⟩ |
    ⟨-, w, f, q, es, b, sent, k, -, -, -, he⟩ := exec_cases (.transceive frame) s <;>
    obtain rfl := Host.Outcome.next.inj (he.symm.trans h)
  · rfl
  · rfl
  · rfl
  · obtain ⟨e, rfl, -⟩ := Sequence.ends_of_resume (planOf_ends hp) hq
    exact if_neg ho
  · rfl

/-- Settles O32, by the ways an operation ends. -/
theorem operationsWriteTheirRowOnly : Obligations.OperationsWriteTheirRowOnly := by
  refine fun i s t h => ⟨fun r => exec_same h, fun hr href r hne => ?_, ?_⟩
  · obtain ⟨reason, hreason⟩ := Option.ne_none_iff_exists'.mp href
    rw [exec_eq, perform_refuse hr ((planOf_refuse_iff i s reason).mpr hreason)] at h
    obtain rfl := Host.Outcome.next.inj h
    exact refuse_same s i reason hne
  · rintro frame rfl ho
    exact transceive_resCodeValid h ho

/-! ### `FLAGS` -/

theorem State.finish_flags_same (s : State) {f : Finish} (h : ∀ v, f ≠ .setFlags v) : (s.finish f).flags = s.flags :=
  s.finish_same (r := .flags) (by cases f <;> simp [Finish.writes] at h ⊢)

theorem eq_setFlags_of_endsOf {c : Config} {i : Instr} {v : Byte} (h : endsOf c i (.setFlags v)) : i = .setFlags v := by
  cases i <;> simp_all [endsOf, endsOf.framedEnd]

/-- An operation that writes `FLAGS` is `SET_FLAGS` (R200). -/
theorem finish_flags_cases {i : Instr} {c : Config} {f : Finish} (h : endsOf c i f) (s : State) :
    (s.finish f).flags = s.flags ∨ ∃ v, i = .setFlags v ∧ (s.finish f).flags = v := by
  cases f
  case setFlags v => exact .inr ⟨v, eq_setFlags_of_endsOf h, rfl⟩
  all_goals exact .inl (s.finish_flags_same fun v => by simp)

theorem exec_flags {i : Instr} {s t : State} (h : exec i s = .next t) :
    t.flags = s.flags ∨ ∃ v, i = .setFlags v ∧ t.flags = v := by
  obtain ⟨-, he⟩ | ⟨-, -, he⟩ | ⟨-, reason, -, he⟩ | ⟨-, w, f, q, es, b, fin, hp, hq, -, he⟩ |
    ⟨-, w, f, q, es, b, sent, k, -, -, -, he⟩ := exec_cases i s <;>
    obtain rfl := Host.Outcome.next.inj (he.symm.trans h)
  · exact .inl rfl
  · exact .inl rfl
  · exact .inl rfl
  · exact finish_flags_cases (Sequence.ends_of_resume (planOf_ends hp) hq) _
  · exact .inl rfl

theorem accept_flags {i : Instr} {s t : State} (hb : s.busy = false) (h : accept i s = .next t) :
    t.flags = s.flags ∨ ∃ v, i = .setFlags v ∧ t.flags = v := by
  obtain ⟨-, he⟩ | ⟨-, r, -, he⟩ | ⟨-, w, f, q, hp, he⟩ := accept_cases i hb <;>
    obtain rfl := Host.Outcome.next.inj (he.symm.trans h)
  · exact .inl rfl
  · exact .inl rfl
  · cases q with
    | done fin => exact finish_flags_cases (planOf_ends hp) _
    | delay ms k => exact .inl rfl
    | xfer sent k => exact .inl rfl

/-- What is left of the operation in progress does not depend on the inputs to come. -/
theorem State.current_inputs (s : State) (rest : List HostInput) :
    State.current { s with inputs := rest } = s.current := by
  simp only [current]
  split
  · rfl
  · rw [planOf_congr (s := { s with inputs := rest }) (t := s) _ rfl rfl]
    rfl

/-- Nor does the invariant. -/
theorem State.Inv.inputs {s : State} (h : s.Inv) (rest : List HostInput) : State.Inv { s with inputs := rest } where
  cfg_wf := h.cfg_wf
  ready := h.ready
  latched := h.latched
  coherent := by rw [State.current_inputs]; exact h.coherent
  step_le := h.step_le
  halted := h.halted
  events_wf := h.events_wf
  txf_le := h.txf_le
  data_le := h.data_le
  bus_wf := h.bus_wf

/-- The sequence in progress belongs to an operation. -/
theorem State.current_cases {s : State} {q : Sequence} (h : s.current = some q) :
    ∃ sel w f body, s.seq.op = some sel ∧ planOf (s.latches.instr sel) s = .go w f body ∧
      body.resume s.produced = some q := by
  simp only [current] at h
  split at h
  · cases h
  · next sel hop =>
    split at h
    · next w f body hp => exact ⟨sel, w, f, body, hop, hp, h⟩
    · cases h

/-- An operation in progress is not `SET_FLAGS`, which has no events: an event leaves `FLAGS` alone (R200). -/
theorem advance_flags {s t : State} (hi : s.Inv) (h : advance s = .next t) : t.flags = s.flags := by
  cases hb : s.busy with
  | false =>
    rw [advance_ready hb] at h
    rw [Host.Outcome.next.inj h]
  | true =>
    obtain ⟨q, hc, hu⟩ := hi.coherent hb
    obtain ⟨e, b, q', -, -, -, -, he⟩ | ⟨e, b, fin, hq, -, he⟩ | ⟨b, sent, k, -, -, he⟩ :=
      advance_cases hb hc hu hi.step_le.1 <;>
      obtain rfl := Host.Outcome.next.inj (he.symm.trans h)
    · rfl
    · obtain ⟨sel, w, f, body, -, hp, hbody⟩ := State.current_cases hc
      have hall : body.resume (s.produced ++ [e]) = some (.done fin) := (Sequence.resume_append hbody).trans hq
      refine State.finish_flags_same _ fun v hv => ?_
      rw [hv] at hall
      rw [eq_setFlags_of_endsOf (Sequence.ends_of_resume (planOf_ends hp) hall)] at hp
      cases hp
      simp [Sequence.resume_done_iff] at hall
    · rfl

/-- A request changes `FLAGS` only when it is `SET_FLAGS`. -/
theorem request_flags {wait : Bool} {bytes : List Byte} {s t : State} (h : request wait bytes s = .next t) :
    t.flags = s.flags ∨ ∃ v extra, decodeRequest s.cfg bytes = .ok (.setFlags v, extra) ∧ t.flags = v := by
  obtain ⟨-, rfl⟩ | ⟨hb, i, extra, hd, he⟩ | ⟨-, b, rfl⟩ := request_cases h
  · exact .inl rfl
  · obtain hf | ⟨v, rfl, hv⟩ := he.elim exec_flags (accept_flags hb)
    · exact .inl hf
    · exact .inr ⟨v, extra, hd, hv⟩
  · exact .inl rfl

/-- Settles O33, by what a step can do. -/
theorem flagsChangeBySetFlagsOrReset : Obligations.FlagsChangeBySetFlagsOrReset := by
  intro s t hi h hne
  obtain ⟨rest, hin, -⟩ | ⟨rest, ha⟩ | ⟨wait, bytes, rest, hin, hq⟩ := step_cases h
  · exact .inl ⟨rest, hin⟩
  · exact absurd (advance_flags (hi.inputs rest) ha) hne
  · obtain hf | ⟨v, extra, hd, hv⟩ := request_flags hq
    · exact absurd hf hne
    · exact .inr ⟨bytes, rest, v, extra, hin, hd, hv⟩

end Sys2Proof.Machine
end

section
/-! SUPPORT. What is sent on the bus (spec 30_encoding R102 to R105): a command is read back from its frame, and a
probe is no command. -/

namespace Sys2Proof

theorem Config.opc_nodup {c : Config} (h : c.wf = true) : c.opc.all.Nodup := by
  simp only [Config.wf, Bool.and_eq_true, decide_eq_true_eq] at h
  tauto

theorem Config.probeByte_not_mem {c : Config} (h : c.wf = true) : c.bytes.probeByte ∉ c.opc.all := by
  simp only [Config.wf, Bool.and_eq_true, Bool.not_eq_true', List.contains_eq_mem, decide_eq_false_iff_not] at h
  tauto

/-- A command is read back from its frame (R103). -/
theorem decodeBusFrame_frame {c : Config} (h : c.wf = true) (cmd : BusCommand) :
    decodeBusFrame c (cmd.frame c) = .ok cmd := by
  have hn := Config.opc_nodup h
  have word : ∀ v : Word, de32 [v.extractLsb' 0 8, v.extractLsb' 8 8, v.extractLsb' 16 8, v.extractLsb' 24 8] = v :=
    de32_le32
  simp only [Opcodes.all, List.nodup_cons, List.mem_cons, List.not_mem_nil, or_false, not_or] at hn
  cases cmd <;> simp [decodeBusFrame, BusCommand.frame, le32, word, hn, Ne.symm]

/-- A probe is no command (R105). -/
theorem decodeBusFrame_probe {c : Config} (h : c.wf = true) (n : Nat) (cmd : BusCommand) :
    decodeBusFrame c (rep c.bytes.probeByte n) ≠ .ok cmd := by
  have hp := Config.probeByte_not_mem h
  simp only [Opcodes.all, List.mem_cons, List.not_mem_nil, or_false, not_or] at hp
  cases n <;> simp [decodeBusFrame, rep, List.replicate_succ, hp]

theorem BusCommand.frame_ne_nil (c : Config) (cmd : BusCommand) : cmd.frame c ≠ [] := by
  cases cmd <;> simp [BusCommand.frame]

end Sys2Proof
end

section
/-! SUPPORT. What a transfer can store to on the reference responder (spec 20_memory R90 to R95): a command the
registers it names, a probe none. -/

namespace Sys2Proof.Machine

/-! ### The responder's memories -/

/-- The EEPROM is as before, and so is every register byte outside the registers `as`; the register memory keeps
its canonical form. -/
structure Responder.SameBut (as : List Byte) (r r' : Responder) : Prop where
  eeprom : r'.eeprom = r.eeprom
  reg_wf : r.reg.wf = true → r'.reg.wf = true
  reg : r.reg.wf = true → ∀ x, (∀ a ∈ as, x < regBase a ∨ regBase a + 4 ≤ x) → r'.reg.read x = r.reg.read x

theorem Responder.sameBut_of_eq {as : List Byte} {r r' : Responder} (he : r'.eeprom = r.eeprom)
    (hr : r'.reg = r.reg) : r.SameBut as r' :=
  ⟨he, fun h => hr ▸ h, fun _ _ _ => by rw [hr]⟩

theorem Responder.SameBut.trans {as : List Byte} {r r' r'' : Responder} (h : r.SameBut as r')
    (h' : r'.SameBut as r'') : r.SameBut as r'' where
  eeprom := h'.eeprom.trans h.eeprom
  reg_wf hw := h'.reg_wf (h.reg_wf hw)
  reg hw x hx := (h'.reg (h.reg_wf hw) x hx).trans (h.reg hw x hx)

theorem Responder.SameBut.mono {as bs : List Byte} {r r' : Responder} (h : r.SameBut as r') (hs : as ⊆ bs) :
    r.SameBut bs r' :=
  ⟨h.eeprom, h.reg_wf, fun hw x hx => h.reg hw x fun a ha => hx a (hs ha)⟩

/-- Storing to a register changes its four bytes alone (R92). -/
theorem Responder.writeReg_sameBut (r : Responder) (a : Byte) (v : Word) : r.SameBut [a] (r.writeReg a v) where
  eeprom := rfl
  reg_wf h := Memory.writeBytes_wf h _ _
  reg h x hx := by
    have hout := hx a List.mem_cons_self
    have hlen : (le32 v).length = 4 := rfl
    rw [writeReg, Memory.read_writeBytes h, if_neg (by omega)]

/-- The registers a bus command stores to (R92, R94). -/
def commandStores (c : Config) : BusCommand → List Byte
  | .writeRegister a _ | .writeRegisterOrMask a _ | .writeRegisterAndMask a _ => [a]
  | .sendData _ _ => [c.chip.regRxStatus]
  | .readRegister _ | .readEeprom _ _ | .readData _ | .loadRfConfig _ _ | .rfOn _ | .rfOff _ => []

theorem Responder.execute_sameBut (c : Config) (r : Responder) (cmd : BusCommand) :
    r.SameBut (commandStores c cmd) (r.execute c cmd) := by
  cases cmd with
  | writeRegister a v | writeRegisterOrMask a v | writeRegisterAndMask a v =>
    simp only [execute]
    split
    · exact r.writeReg_sameBut a _
    · exact sameBut_of_eq rfl rfl
  | sendData vb p =>
    have hbufs : r.SameBut [c.chip.regRxStatus] { r with txbuf := p, rxbuf := r.answer p } := sameBut_of_eq rfl rfl
    exact hbufs.trans (writeReg_sameBut _ _ _)
  | readRegister a =>
    simp only [execute]
    split <;> exact sameBut_of_eq rfl rfl
  | readEeprom a l | readData x | loadRfConfig t x | rfOn m | rfOff x => exact sameBut_of_eq rfl rfl

/-! ### What is sent -/

/-- Bytes that a transfer of an operation storing to the registers `as` may send: at least one, and, where they
are a command, one that stores to no other register. -/
def Sendable (c : Config) (as sent : List Byte) : Prop :=
  sent ≠ [] ∧ ∀ cmd, decodeBusFrame c sent = .ok cmd → commandStores c cmd ⊆ as

theorem sendable_frame {c : Config} (h : c.wf = true) {cmd : BusCommand} {as : List Byte}
    (hs : commandStores c cmd ⊆ as) : Sendable c as (cmd.frame c) := by
  refine ⟨BusCommand.frame_ne_nil c cmd, fun cmd' hd => ?_⟩
  rw [decodeBusFrame_frame h, Except.ok.injEq] at hd
  exact hd ▸ hs

theorem sendable_probe {c : Config} (h : c.wf = true) {n : Nat} (hn : 0 < n) (as : List Byte) :
    Sendable c as (rep c.bytes.probeByte n) :=
  ⟨by simp [rep]; omega, fun cmd hd => absurd hd (decodeBusFrame_probe h n cmd)⟩

/-! ### A transfer and the events answered -/

theorem Responder.transfer_sameBut {c : Config} {as sent : List Byte} (h : Sendable c as sent) (r : Responder) :
    r.SameBut as (r.transfer c sent).2 := by
  unfold transfer
  split
  · split
    · next cmd hd => exact (r.execute_sameBut c cmd).mono (h.2 cmd hd)
    · exact sameBut_of_eq rfl rfl
  · exact sameBut_of_eq rfl rfl

/-- The same of what is on the bus port: an oracle stays one, a responder's memories change only so. -/
inductive Bus.SameBut (as : List Byte) : Bus → Bus → Prop where
  | oracle {answers answers' : List (Option (List Byte))} {drawn drawn' : Nat} :
    SameBut as (.oracle answers drawn) (.oracle answers' drawn')
  | responder {chip chip' : Responder} {failIn failIn' : Option Nat} :
    chip.SameBut as chip' → SameBut as (.responder chip failIn) (.responder chip' failIn')

theorem Bus.sameBut_refl (as : List Byte) (b : Bus) : b.SameBut as b := by
  cases b with
  | oracle answers drawn => exact .oracle
  | responder chip failIn => exact .responder (Responder.sameBut_of_eq rfl rfl)

theorem Bus.SameBut.trans {as : List Byte} {b b' b'' : Bus} (h : b.SameBut as b') (h' : b'.SameBut as b'') :
    b.SameBut as b'' := by
  cases h with
  | oracle => cases h'; exact .oracle
  | responder hr => cases h' with | responder hr' => exact .responder (Responder.SameBut.trans hr hr')

/-- The memories keep their canonical form. -/
theorem Bus.SameBut.wf {as : List Byte} {b b' : Bus} (h : b.SameBut as b') (hb : b.wf = true) : b'.wf = true := by
  cases h with
  | oracle => rfl
  | @responder chip chip' _ _ hr =>
    obtain ⟨hreg, hee⟩ : chip.reg.wf = true ∧ chip.eeprom.wf = true := by simpa [Bus.wf] using hb
    simp [Bus.wf, hr.reg_wf hreg, hr.eeprom, hee]

theorem Bus.transfer_sameBut {c : Config} {as sent : List Byte} (h : Sendable c as sent) (tr : List Event) (b : Bus) :
    b.SameBut as (Bus.transfer c tr sent b).2 := by
  cases b with
  | oracle answers drawn => cases answers <;> exact .oracle
  | responder chip failIn =>
    cases failIn with
    | none => exact .responder (chip.transfer_sameBut h)
    | some k =>
      cases k with
      | zero => exact .responder (Responder.sameBut_of_eq rfl rfl)
      | succ k => exact .responder (chip.transfer_sameBut h)

end Sys2Proof.Machine
end

section
/-! SUPPORT. What every operation's sequence keeps to, event by event: the bytes it sends, and, for replies of the
length sent (spec 20_memory R70), how much it leaves in `RES_DATA` (10_state R25). -/

namespace Sys2Proof.Machine

/-! ### Sequences that keep to a rule -/

/-- Every transfer sends bytes that satisfy `T`, and every end that replies of the length sent lead to satisfies
`P`. -/
def Sequence.Keeps (T : List Byte → Prop) (P : Finish → Prop) : Sequence → Prop
  | .done f => P f
  | .delay _ k => k.Keeps T P
  | .xfer sent k => T sent ∧ ∀ r, r.length = sent.length → (k r).Keeps T P

/-- A transfer of bytes that satisfy `T`, with a reply of their length; or a delay. -/
def EventKeeps (T : List Byte → Prop) : Event → Prop
  | .delay _ => True
  | .xfer sent reply => T sent ∧ reply.length = sent.length

/-- The first event a sequence resumes after is its own first delay or transfer. -/
theorem Sequence.resume_cons {q q' : Sequence} {e : Event} {es : List Event} (h : q.resume (e :: es) = some q') :
    (∃ ms k, q = .delay ms k ∧ e = .delay ms ∧ k.resume es = some q') ∨
    (∃ sent k reply, q = .xfer sent k ∧ e = .xfer sent reply ∧ (k reply).resume es = some q') := by
  cases q <;> cases e <;> simp only [resume, reduceCtorEq, Option.ite_none_right_eq_some] at h
  case delay.delay ms k ms' =>
    obtain ⟨rfl, h⟩ := h
    exact .inl ⟨ms, k, rfl, rfl, h⟩
  case xfer.xfer sent k sent' reply =>
    obtain ⟨rfl, h⟩ := h
    exact .inr ⟨sent, k, reply, rfl, rfl, h⟩

/-- A transfer answered first, and the rest answered in the state it leaves. -/
theorem Answered.transfer {s : State} {sent reply : List Byte} {es : List Event} {b : Bus}
    (h : Answered s (.xfer sent reply :: es) b) : ∃ b', Bus.transfer s.cfg s.trace sent s.bus = (some reply, b') ∧
      Answered (State.event { s with bus := b' } (.xfer sent reply)) es b := by
  simp only [Answered, busAfter, Option.ite_none_right_eq_some] at h
  obtain ⟨hr, h⟩ := h
  exact ⟨(Bus.transfer s.cfg s.trace sent s.bus).2, by rw [← hr], h⟩

/-- After events whose replies have the length sent, the rest keeps to the rule. -/
theorem Sequence.keeps_resume {T : List Byte → Prop} {P : Finish → Prop} {q q' : Sequence} {es : List Event}
    (h : q.Keeps T P) (hes : ∀ e ∈ es, eventWf e = true) (hq : q.resume es = some q') : q'.Keeps T P := by
  induction es generalizing q with
  | nil => rw [resume_nil, Option.some.injEq] at hq; exact hq ▸ h
  | cons e es ih =>
    obtain ⟨he, hrest⟩ := List.forall_mem_cons.mp hes
    obtain ⟨ms, k, rfl, rfl, hk⟩ | ⟨sent, k, reply, rfl, rfl, hk⟩ := resume_cons hq
    · exact ih (q := k) h hrest hk
    · have hlen : reply.length = sent.length := by
        simp only [eventWf, Bool.and_eq_true, beq_iff_eq] at he
        exact he.2.symm
      exact ih (h.2 reply hlen) hrest hk

/-- The events of a sequence that are answered keep to its rule: a transfer that does not fail returns as many
bytes as were sent (R70). -/
theorem Sequence.answered_keeps {T : List Byte → Prop} {P : Finish → Prop} {q q' : Sequence} {es : List Event}
    {s : State} {b : Bus} (h : q.Keeps T P) (hq : q.resume es = some q') (ha : Answered s es b) :
    ∀ e ∈ es, EventKeeps T e := by
  induction es generalizing q s with
  | nil => simp
  | cons e es ih =>
    rw [List.forall_mem_cons]
    obtain ⟨ms, k, rfl, rfl, hk⟩ | ⟨sent, k, reply, rfl, rfl, hk⟩ := resume_cons hq
    · exact ⟨trivial, ih (q := k) (s := s.event (.delay ms)) h hk ha⟩
    · obtain ⟨b', ht, hrest⟩ := ha.transfer
      have hlen := Bus.transfer_length ht
      exact ⟨⟨h.1, hlen⟩, ih (h.2 reply hlen) hk hrest⟩

/-- Events that send only what may be sent change the responder's memories only so. -/
theorem answered_sameBut {as : List Byte} {es : List Event} {s : State} {b : Bus}
    (hes : ∀ e ∈ es, EventKeeps (Sendable s.cfg as) e) (ha : Answered s es b) : s.bus.SameBut as b := by
  induction es generalizing s with
  | nil => rw [answered_nil] at ha; exact ha ▸ Bus.sameBut_refl as s.bus
  | cons e es ih =>
    obtain ⟨he, hrest⟩ := List.forall_mem_cons.mp hes
    cases e with
    | delay ms => exact ih (s := s.event (.delay ms)) hrest ha
    | xfer sent reply =>
      obtain ⟨b', ht, ha'⟩ := ha.transfer
      have hfirst := Bus.transfer_sameBut he.1 s.trace s.bus
      rw [ht] at hfirst
      exact hfirst.trans (ih (s := State.event { s with bus := b' } (.xfer sent reply)) hrest ha')

theorem eventWf_of_keeps {c : Config} {as : List Byte} {e : Event} (h : EventKeeps (Sendable c as) e) :
    eventWf e = true := by
  cases e with
  | delay ms => rfl
  | xfer sent reply =>
    obtain ⟨⟨hne, -⟩, hlen⟩ := h
    simp [eventWf, hne, hlen]

theorem Sequence.answered_eventWf {c : Config} {as : List Byte} {P : Finish → Prop} {q q' : Sequence}
    {es : List Event} {s : State} {b : Bus} (h : q.Keeps (Sendable c as) P) (hq : q.resume es = some q')
    (ha : Answered s es b) : ∀ e ∈ es, eventWf e = true :=
  fun e he => eventWf_of_keeps (answered_keeps h hq ha e he)

/-- What is left after answered events keeps to the rule of the whole. -/
theorem Sequence.keeps_answered {c : Config} {as : List Byte} {P : Finish → Prop} {q q' : Sequence}
    {es : List Event} {s : State} {b : Bus} (h : q.Keeps (Sendable c as) P) (hq : q.resume es = some q')
    (ha : Answered s es b) : q'.Keeps (Sendable c as) P :=
  keeps_resume h (answered_eventWf h hq ha) hq

/-! ### The operations' sequences -/

/-- The final writes leave at most `n` bytes in `RES_DATA`, where they write it. -/
def Finish.DataLe (n : Nat) : Finish → Prop
  | .data d => d.length ≤ n
  | .exchange e => e.data.length ≤ n
  | .framed e => e.data.length ≤ n
  | .ok | .value _ | .setFlags _ | .flagsOut | .classified _ _ => True

section Commands
variable {c : Config} (hc : c.wf = true) {as : List Byte} {P : Finish → Prop}
include hc

/-- A command that stores to no register but those of `as`, and what follows its reply. -/
theorem Sequence.keeps_command {cmd : BusCommand} {n : Nat} {k : List Byte → Sequence}
    (hs : commandStores c cmd ⊆ as) (hk : ∀ r : List Byte, r.length = n → (k r).Keeps (Sendable c as) P) :
    (chipCommand c cmd n k).Keeps (Sendable c as) P := by
  refine ⟨sendable_frame hc hs, fun _ _ => ?_⟩
  show Sequence.Keeps _ _ (if 0 < n then _ else _)
  split
  · next hn => exact ⟨sendable_probe hc hn as, fun r hr => hk r (by simpa [rep] using hr)⟩
  · next hn => exact hk [] (by simp only [List.length_nil]; omega)

omit hc in
theorem Sequence.keeps_delay {ms : Nat} {q : Sequence} (hq : q.Keeps (Sendable c as) P) :
    (Sequence.delay ms q).Keeps (Sendable c as) P := hq

theorem Sequence.keeps_readEeprom {a l : Byte} {k : List Byte → Sequence}
    (hk : ∀ r : List Byte, r.length = l.toNat → (k r).Keeps (Sendable c as) P) :
    (readEeprom c a l k).Keeps (Sendable c as) P :=
  keeps_command hc (by simp [commandStores]) hk

theorem Sequence.keeps_readRegister {a : Byte} {k : Word → Sequence}
    (hk : ∀ v, (k v).Keeps (Sendable c as) P) : (readRegister c a k).Keeps (Sendable c as) P :=
  keeps_command hc (by simp [commandStores]) fun _ _ => hk _

theorem Sequence.keeps_commandIdle {q : Sequence} (hs : c.chip.regSystemConfig ∈ as)
    (hq : q.Keeps (Sendable c as) P) : (commandIdle c q).Keeps (Sendable c as) P :=
  keeps_command hc (by simpa [commandStores]) fun _ _ => hq

theorem Sequence.keeps_commandTransceive {q : Sequence} (hs : c.chip.regSystemConfig ∈ as)
    (hq : q.Keeps (Sendable c as) P) : (commandTransceive c q).Keeps (Sendable c as) P :=
  keeps_commandIdle hc hs (keeps_command hc (by simpa [commandStores]) fun _ _ => hq)

theorem Sequence.keeps_chipReset {q : Sequence} (hs : c.chip.regSystemConfig ∈ as)
    (hq : q.Keeps (Sendable c as) P) : (chipReset c q).Keeps (Sendable c as) P :=
  keeps_command hc (by simpa [commandStores]) fun _ _ => keeps_delay <|
    keeps_command hc (by simpa [commandStores]) fun _ _ => keeps_delay hq

/-- A transceive stores to the system-config and the RX status register, and returns at most `RX_MAX` bytes
(R180). -/
theorem transceiveSequence_keeps {frame : List Byte} {fin : Exchange → Finish}
    (hfin : ∀ e : Exchange, e.data.length ≤ c.limits.rxMax → P (fin e)) :
    (transceiveSequence c frame fin).Keeps (Sendable c [c.chip.regSystemConfig, c.chip.regRxStatus]) P := by
  have hsys : c.chip.regSystemConfig ∈ [c.chip.regSystemConfig, c.chip.regRxStatus] := List.mem_cons_self
  have idle : ∀ e : Exchange, e.data.length ≤ c.limits.rxMax → (commandIdle c (.done (fin e))).Keeps
      (Sendable c [c.chip.regSystemConfig, c.chip.regRxStatus]) P := fun e he =>
    Sequence.keeps_commandIdle hc hsys (hfin e he)
  refine Sequence.keeps_commandTransceive hc hsys (Sequence.keeps_readRegister hc fun rf => ?_)
  split
  · exact idle _ (Nat.zero_le _)
  · refine Sequence.keeps_command hc (by simp [commandStores]) fun _ _ =>
      Sequence.keeps_delay (Sequence.keeps_readRegister hc fun rx => ?_)
    split
    · exact idle _ (Nat.zero_le _)
    · refine Sequence.keeps_command hc (by simp [commandStores]) fun r hr => idle _ ?_
      rw [received_data, List.length_tail]
      omega

end Commands

/-- What `RES_DATA` can hold is within the bound: received bytes, and the bytes of an EEPROM read (R25). -/
theorem rxMax_le_dataBound (c : Config) : c.limits.rxMax ≤ dataBound c := le_max_left _ _

theorem byte_le_dataBound {c : Config} (h : c.wf = true) (b : Byte) : b.toNat ≤ dataBound c := by
  simp only [Config.wf, Widths.wf, Bool.and_eq_true, beq_iff_eq] at h
  have hw : c.width.eepromLenBits = 8 := by tauto
  have hb := b.isLt
  simp only [dataBound, hw]
  omega

/-- Every operation's sequence stores to the registers of its row alone, and leaves `RES_DATA` within its bound. -/
theorem planOf_keeps {i : Instr} {s : State} {w : Bool} {f : List Byte} {q : Sequence} (hc : s.cfg.wf = true)
    (h : planOf i s = .go w f q) :
    q.Keeps (Sendable s.cfg (storesTo s.cfg i)) (Finish.DataLe (dataBound s.cfg)) := by
  have rx : ∀ {frame fin}, (∀ e : Exchange, e.data.length ≤ dataBound s.cfg → (fin e).DataLe (dataBound s.cfg)) →
      (transceiveSequence s.cfg frame fin).Keeps
        (Sendable s.cfg [s.cfg.chip.regSystemConfig, s.cfg.chip.regRxStatus]) (Finish.DataLe (dataBound s.cfg)) :=
    fun hfin => transceiveSequence_keeps hc fun e he => hfin e (he.trans (rxMax_le_dataBound s.cfg))
  have fr : ∀ {w' r}, framed s w' r = .go w f q → q.Keeps
      (Sendable s.cfg [s.cfg.chip.regSystemConfig, s.cfg.chip.regRxStatus]) (Finish.DataLe (dataBound s.cfg)) := by
    intro w' r h
    unfold framed at h
    dsimp only at h
    split at h
    · cases h
    · cases h; exact rx fun e he => he
  cases i <;> simp only [planOf, planWriteRegister, planWriteRegisterOrMask, planWriteRegisterAndMask,
    planReadRegister, planReadEeprom, planSendData, planReadData, planLoadRfConfig, planRfOn, planRfOff,
    planSelfTest, planGetDieId, planGetProductVersion, planGetFirmwareVersion, planGetEepromVersion,
    planSetCommandIdle, planSetCommandTransceive, planSoftwareReset, planConfigureIso15693, planTransceive,
    planSetFlags, planGetFlags, planSelect, planInventory, planWriteMultipleBlocks, planCustomWriteSingle,
    planClassify, Plan.plain] at h
  case readSingleBlock | writeSingleBlock | resetToReady | lockAfi | lockDsfid | writeAfi | writeDsfid
    | getSystemInformation | getMultipleBlockSecurityStatus | custom => exact fr h
  case select => split at h; cases h; exact fr h
  case inventory | writeMultipleBlocks | customWriteSingle => cases h
  case setFlags | getFlags | classify => cases h; trivial
  case writeRegister | writeRegisterOrMask | writeRegisterAndMask =>
    split at h
    · cases h; exact Sequence.keeps_command hc (by simp [commandStores, storesTo]) fun _ _ => trivial
    · cases h
  case readRegister =>
    split at h
    · cases h; exact Sequence.keeps_readRegister hc fun _ => trivial
    · cases h
  case sendData =>
    split at h
    · cases h
    · split at h
      · cases h
      · cases h; exact Sequence.keeps_command hc (by simp [commandStores, storesTo]) fun _ _ => trivial
  case readData len =>
    split at h
    · cases h
    · next hlen =>
      cases h
      have hle : len.toNat ≤ s.cfg.limits.rxMax := by simpa [rxLenOk] using hlen
      exact Sequence.keeps_command hc (by simp [commandStores]) fun r hr =>
        (hr.trans_le hle).trans (rxMax_le_dataBound s.cfg)
  case transceive =>
    split at h
    · cases h
    · cases h; exact rx fun e he => he
  case readEeprom | getDieId | getProductVersion | getFirmwareVersion | getEepromVersion =>
    cases h
    exact Sequence.keeps_readEeprom hc fun r hr => hr.trans_le (byte_le_dataBound hc _)
  case loadRfConfig | rfOn | rfOff =>
    cases h; exact Sequence.keeps_command hc (by simp [commandStores]) fun _ _ => trivial
  case selfTest =>
    cases h
    refine Sequence.keeps_readEeprom hc fun d hd => Sequence.keeps_readEeprom hc fun p hp =>
      Sequence.keeps_readEeprom hc fun f hf => Sequence.keeps_readEeprom hc fun e he => ?_
    simp only [Sequence.Keeps, Finish.DataLe, List.length_append, dataBound]
    omega
  case setCommandIdle => cases h; exact Sequence.keeps_commandIdle hc List.mem_cons_self trivial
  case setCommandTransceive => cases h; exact Sequence.keeps_commandTransceive hc List.mem_cons_self trivial
  case softwareReset => cases h; exact Sequence.keeps_chipReset hc List.mem_cons_self trivial
  case configureIso15693 =>
    cases h
    exact Sequence.keeps_chipReset hc List.mem_cons_self <|
      Sequence.keeps_command hc (by simp [commandStores]) fun _ _ =>
      Sequence.keeps_command hc (by simp [commandStores]) fun _ _ =>
      Sequence.keeps_commandIdle hc List.mem_cons_self trivial

/-! ### Chip memory -/

/-- An operation's events, up to their end or to a failed transfer, store to the registers of its row alone. -/
theorem exec_bus_sameBut {i : Instr} {s t : State} (hc : s.cfg.wf = true) (h : exec i s = .next t) :
    s.bus.SameBut (storesTo s.cfg i) t.bus := by
  have ran : ∀ {w f q q' es b}, planOf i s = .go w f q → q.resume es = some q' → Answered s es b →
      s.bus.SameBut (storesTo s.cfg i) b := fun hp hq ha =>
    answered_sameBut (Sequence.answered_keeps (planOf_keeps hc hp) hq ha) ha
  obtain ⟨-, he⟩ | ⟨-, -, he⟩ | ⟨-, reason, -, he⟩ | ⟨-, w, f, q, es, b, fin, hp, hq, ha, he⟩ |
    ⟨-, w, f, q, es, b, sent, k, hp, hq, ⟨b', ha, hf⟩, he⟩ := exec_cases i s <;>
    obtain rfl := Host.Outcome.next.inj (he.symm.trans h)
  · exact Bus.sameBut_refl _ _
  · exact Bus.sameBut_refl _ _
  · exact Bus.sameBut_refl _ _
  · rw [State.finish_bus, State.results_bus]
    exact ran hp hq ha
  · have hsent := Sequence.keeps_answered (planOf_keeps hc hp) hq ha
    have hlast := Bus.transfer_sameBut hsent.1 (s.trace ++ es) b'
    rw [hf] at hlast
    exact (ran hp hq ha).trans hlast

/-- Settles O34: every transfer of an operation sends a command of its row or a probe. -/
theorem chipMemoryFrame : Obligations.ChipMemoryFrame := by
  intro i s t chip failIn hc hbus hw h
  have hsame := exec_bus_sameBut hc h
  rw [hbus] at hsame
  generalize t.bus = b at hsame
  cases hsame with
  | @responder _ chip' _ failIn' hr =>
    exact ⟨chip', failIn', rfl, fun x => by rw [hr.eeprom], hr.reg hw⟩

end Sys2Proof.Machine
end

section
/-! SUPPORT. The invariant of the machine: what it says of the data, kept by whatever an operation does, and what it
says of the sequencer, of a ready block and of a busy one; then every step. -/

namespace Sys2Proof.Machine

/-! ### The invariant's clauses about data -/

/-- The clauses of the invariant that do not speak of the sequencer. -/
structure State.Sound (s : State) : Prop where
  cfg_wf : s.cfg.wf = true
  events_wf : ∀ e ∈ s.trace, eventWf e = true
  data_le : s.resData.length ≤ dataBound s.cfg
  bus_wf : s.bus.wf = true

theorem State.Inv.sound {s : State} (h : s.Inv) : s.Sound := ⟨h.cfg_wf, h.events_wf, h.data_le, h.bus_wf⟩

theorem State.Sound.of_eq {s t : State} (h : s.Sound) (hc : t.cfg = s.cfg) (ht : t.trace = s.trace)
    (hd : t.resData = s.resData) (hb : t.bus = s.bus) : t.Sound where
  cfg_wf := by rw [hc]; exact h.cfg_wf
  events_wf := by rw [ht]; exact h.events_wf
  data_le := by rw [hd, hc]; exact h.data_le
  bus_wf := by rw [hb]; exact h.bus_wf

section Events
variable {s : State} (h : s.Sound) {as : List Byte} {q : Sequence} {es : List Event} {b : Bus}
  (hk : q.Keeps (Sendable s.cfg as) (Finish.DataLe (dataBound s.cfg)))
include h hk

/-- Answered events of a sequence that keeps to the rules are exchanges of equal length (R70). -/
theorem State.Sound.answered {q' : Sequence} (hq : q.resume es = some q') (ha : Answered s es b) :
    (s.after es b).Sound where
  cfg_wf := h.cfg_wf
  events_wf := List.forall_mem_append.mpr ⟨h.events_wf, Sequence.answered_eventWf hk hq ha⟩
  data_le := h.data_le
  bus_wf := (answered_sameBut (Sequence.answered_keeps hk hq ha) ha).wf h.bus_wf

/-- A transfer that fails after them adds no event (R253). -/
theorem State.Sound.fails {sent : List Byte} {k : List Byte → Sequence} (hq : q.resume es = some (.xfer sent k))
    (hf : FailsAfter s es sent b) : (s.after es b).Sound := by
  obtain ⟨b', ha, ht⟩ := hf
  have hsound := h.answered hk hq ha
  have hbus := Bus.transfer_sameBut (Sequence.keeps_answered hk hq ha).1 (s.trace ++ es) b'
  rw [ht] at hbus
  exact ⟨hsound.cfg_wf, hsound.events_wf, hsound.data_le, hbus.wf hsound.bus_wf⟩

end Events

theorem State.results_resData_le {s : State} {f : Finish} {n : Nat} (hs : s.resData.length ≤ n) (hf : f.DataLe n) :
    (s.results f).resData.length ≤ n := by
  cases f with
  | data d | exchange e => exact hf
  | framed e =>
    obtain ⟨o, k, v, he⟩ := s.results_framed e
    rw [he]
    exact hf
  | ok | value v | setFlags v | flagsOut | classified a d => exact hs

theorem State.Sound.finish {s : State} (h : s.Sound) {f : Finish} (hf : f.DataLe (dataBound s.cfg)) :
    (s.finish f).Sound where
  cfg_wf := by simpa using h.cfg_wf
  events_wf := by simpa using h.events_wf
  data_le := by simpa using State.results_resData_le h.data_le hf
  bus_wf := by simpa using h.bus_wf

/-! ### The invariant of a ready block and of a busy one -/

theorem State.Inv.of_ready {s : State} (h : s.Sound) (hseq : s.seq = SeqReg.ready) (htxf : s.txf = [])
    (hh : s.halt = true → s.outcome = .busUnavailable) : s.Inv where
  cfg_wf := h.cfg_wf
  ready _ := ⟨hseq, htxf⟩
  latched sel hop := by rw [hseq] at hop; cases hop
  coherent hb := by rw [State.busy_ready hseq] at hb; cases hb
  step_le := by rw [hseq]; exact ⟨Nat.zero_le _, Nat.zero_le _⟩
  halted hs := ⟨State.busy_ready hseq, hh hs⟩
  events_wf := h.events_wf
  txf_le := by rw [htxf]; exact Nat.zero_le _
  data_le := h.data_le
  bus_wf := h.bus_wf

theorem State.Inv.of_busy {s : State} {q : Sequence} (h : s.Sound) (hb : s.busy = true)
    (hlat : ∀ sel, s.seq.op = some sel → s.latches.op = sel.code s.cfg.hop) (hc : s.current = some q)
    (hu : q.unfinished = true) (hlen : s.seq.step.toNat ≤ s.trace.length) (hh : s.halt = false)
    (htxf : s.txf.length ≤ s.cfg.limits.txMax) : s.Inv where
  cfg_wf := h.cfg_wf
  ready hb' := absurd (hb.symm.trans hb') (by decide)
  latched := hlat
  coherent _ := ⟨q, hc, hu⟩
  step_le := ⟨hlen, (State.current_within hlen hc).2.1⟩
  halted hh' := absurd (hh.symm.trans hh') (by decide)
  events_wf := h.events_wf
  txf_le := htxf
  data_le := h.data_le
  bus_wf := h.bus_wf

/-- Completion of an operation on a block that is not halted. -/
theorem State.Inv.of_finish {s : State} (h : s.Sound) {f : Finish} (hf : f.DataLe (dataBound s.cfg))
    (hh : s.halt = false) : (s.finish f).Inv :=
  .of_ready (h.finish hf) rfl rfl fun ht => by rw [finish_halt, results_halt, hh] at ht; cases ht

/-- A busy block is not halted (R27). -/
theorem State.Inv.not_halted {s : State} (h : s.Inv) (hb : s.busy = true) : s.halt = false := by
  cases hh : s.halt with
  | false => rfl
  | true => exact absurd (hb.symm.trans (h.halted hh).1) (by decide)

/-- What is left of the operation in progress keeps to the rules of its whole sequence. -/
theorem State.Inv.current_keeps {s : State} (h : s.Inv) {q : Sequence} (hc : s.current = some q) :
    ∃ as, q.Keeps (Sendable s.cfg as) (Finish.DataLe (dataBound s.cfg)) := by
  obtain ⟨sel, w, f, body, -, hp, hbody⟩ := State.current_cases hc
  exact ⟨_, Sequence.keeps_resume (planOf_keeps h.cfg_wf hp)
    (fun e he => h.events_wf e (List.mem_of_mem_drop he)) hbody⟩

/-! ### Requests -/

/-- A refusal keeps it: halted, with `OUTCOME` as it was; or not halted. -/
theorem State.Inv.refused {s t : State} (h : s.Inv) {r : Reason} (ht : t.Sound) (hh : t.halt = s.halt)
    (ho : t.outcome = s.outcome) (hr : s.halt = true → r = .halted) : (t.refuse r).Inv := by
  refine .of_ready (ht.of_eq rfl rfl rfl rfl) rfl rfl fun hs => ?_
  have hs : s.halt = true := hh ▸ hs
  rw [hr hs, State.refuse_outcome, if_pos rfl, ho, (h.halted hs).2]

theorem State.Inv.accept_refuse {s : State} (h : s.Inv) {i : Instr} {r : Reason} (hr : s.halt = true → r = .halted) :
    ((s.accept i).refuse r).Inv :=
  h.refused (h.sound.of_eq rfl rfl rfl rfl) rfl rfl hr

theorem exec_keeps_inv {i : Instr} {s t : State} (hi : s.Inv) (h : exec i s = .next t) : t.Inv := by
  obtain ⟨-, he⟩ | ⟨-, -, he⟩ | ⟨hr, r, -, he⟩ | ⟨hr, w, f, q, es, b, fin, hp, hq, ha, he⟩ |
    ⟨hr, w, f, q, es, b, sent, k, hp, hq, hf, he⟩ := exec_cases i s <;>
    obtain rfl := Host.Outcome.next.inj (he.symm.trans h)
  · exact hi
  · exact hi.accept_refuse fun _ => rfl
  · exact hi.accept_refuse fun hh => absurd (hr.2.symm.trans hh) (by decide)
  · have hk := planOf_keeps hi.cfg_wf hp
    have hsound : ((s.started i w f).after es b).Sound := (hi.sound.answered hk hq ha).of_eq rfl rfl rfl rfl
    exact .of_finish hsound (Sequence.keeps_answered hk hq ha) hr.2
  · have hk := planOf_keeps hi.cfg_wf hp
    exact .of_ready ((hi.sound.fails hk hq hf).of_eq rfl rfl rfl rfl) rfl rfl fun _ => rfl

theorem accept_keeps_inv {i : Instr} {s t : State} (hb : s.busy = false) (hi : s.Inv) (h : accept i s = .next t) :
    t.Inv := by
  obtain ⟨-, he⟩ | ⟨hr, r, -, he⟩ | ⟨hr, w, f, q, hp, he⟩ := accept_cases i hb <;>
    obtain rfl := Host.Outcome.next.inj (he.symm.trans h)
  · exact hi.accept_refuse fun _ => rfl
  · exact hi.accept_refuse fun hh => absurd (hr.2.symm.trans hh) (by decide)
  · have hsound : (s.started i w f).Sound := hi.sound.of_eq rfl rfl rfl rfl
    by_cases hu : q.unfinished = true
    · rw [Sequence.settle_unfinished hu]
      refine .of_busy hsound rfl (fun sel hop => ?_) (State.current_started hp) hu (Nat.zero_le _) hr.2
        (planOf_frame hp).2.2
      rw [← Option.some.inj hop]
      exact (Laws.Latched.all i s.cfg.hop s.latches).2
    · obtain ⟨fin, rfl⟩ := Sequence.done_of_not_unfinished hu
      exact .of_finish hsound (planOf_keeps hi.cfg_wf hp) hr.2

theorem request_keeps_inv {wait : Bool} {bytes : List Byte} {s t : State} (hi : s.Inv)
    (h : request wait bytes s = .next t) : t.Inv := by
  obtain ⟨-, rfl⟩ | ⟨hb, i, extra, -, he⟩ | ⟨-, b, rfl⟩ := request_cases h
  · exact hi
  · exact he.elim (exec_keeps_inv hi) (accept_keeps_inv hb hi)
  · exact hi.refused (hi.sound.of_eq rfl rfl rfl rfl) rfl rfl fun hh => if_pos hh

/-! ### One event, and the reset input -/

theorem advance_keeps_inv {s t : State} (hi : s.Inv) (h : advance s = .next t) : t.Inv := by
  cases hb : s.busy with
  | false =>
    rw [advance_ready hb] at h
    exact Host.Outcome.next.inj h ▸ hi
  | true =>
    obtain ⟨q, hc, hu⟩ := hi.coherent hb
    obtain ⟨as, hk⟩ := hi.current_keeps hc
    have hlen := hi.step_le.1
    have hnot := hi.not_halted hb
    obtain ⟨e, b, q', hq, ha, hu', hc', he⟩ | ⟨e, b, fin, hq, ha, he⟩ | ⟨b, sent, k, rfl, hf, he⟩ :=
      advance_cases hb hc hu hlen <;>
      obtain rfl := Host.Outcome.next.inj (he.symm.trans h)
    · have hsound := (hi.sound.answered hk hq ha).of_eq (t := State.event { s with bus := b } e) rfl rfl rfl rfl
      refine .of_busy hsound hb hi.latched hc' hu' ?_ hnot hi.txf_le
      have hlt := State.step_lt hlen hc hu
      simp only [State.event_seq, State.event_trace, List.length_append, List.length_singleton]
      rw [SeqReg.step_succ (by omega)]
      omega
    · have hsound := (hi.sound.answered hk hq ha).of_eq (t := State.event { s with bus := b } e) rfl rfl rfl rfl
      exact .of_finish hsound (Sequence.keeps_answered hk hq ha) hnot
    · have hsound := hi.sound.fails hk (Sequence.resume_nil _) hf
      exact .of_ready (hsound.of_eq rfl (List.append_nil _).symm rfl rfl) rfl rfl fun _ => rfl

theorem State.Inv.blockReset {s : State} (h : s.Inv) : s.blockReset.Inv :=
  .of_ready ⟨h.cfg_wf, h.events_wf, Nat.zero_le _, h.bus_wf⟩ rfl rfl fun hh => by cases hh

/-- Settles O44, by what a step can do. -/
theorem stepKeepsTheInvariant : Obligations.StepKeepsTheInvariant := by
  intro s t hi h
  obtain ⟨rest, -, rfl⟩ | ⟨rest, ha⟩ | ⟨wait, bytes, rest, -, hq⟩ := step_cases h
  · exact (hi.inputs rest).blockReset
  · exact advance_keeps_inv (hi.inputs rest) ha
  · exact request_keeps_inv (hi.inputs rest) hq

/-- Settles O45: a ready block with an empty trace, the default parameters and an oracle on the bus. -/
theorem resetHasTheInvariant : Obligations.ResetHasTheInvariant :=
  .of_ready ⟨by decide, fun e he => absurd he List.not_mem_nil, Nat.zero_le _, rfl⟩ rfl rfl fun hh => by cases hh

/-- Settles O43, by what one event can do; fewer than 18 events before one that is left (R26). -/
theorem sequencerCountsEvents : Obligations.SequencerCountsEvents := by
  intro s hi hb
  obtain ⟨q, hc, hu⟩ := hi.coherent hb
  have hlen := hi.step_le.1
  have hlt := State.step_lt hlen hc hu
  obtain ⟨e, b, q', -, -, -, -, he⟩ | ⟨e, b, fin, -, -, he⟩ | ⟨b, sent, k, -, -, he⟩ :=
    advance_cases hb hc hu hlen
  · have hstep := SeqReg.step_succ (x := s.seq.step) (by omega)
    exact ⟨_, he, .inl ⟨e, rfl, hb, rfl, hstep, by rw [State.event_seq]; simp only [hstep]; omega⟩⟩
  · exact ⟨_, he, .inr (.inl ⟨e, by simp, rfl, by simpa using hi.not_halted hb⟩)⟩
  · exact ⟨_, he, .inr (.inr ⟨rfl, rfl, rfl, rfl⟩)⟩

end Sys2Proof.Machine
end

section
/-! SUPPORT. A request accepted and then given time event by event comes to what the operation run whole comes to
(spec 10_state R26, 60_exceptions R262; log 6, log 11). -/

namespace Sys2Proof.Machine

/-! ### The inputs to come change nothing of an event -/

theorem State.with_inputs_self {s : State} {ins : List HostInput} (h : s.inputs = ins) :
    { s with inputs := ins } = s := by
  subst h
  rfl

theorem State.finish_with_inputs (s : State) (f : Finish) (ins : List HostInput) :
    State.finish { s with inputs := ins } f = { s.finish f with inputs := ins } := by
  cases f with
  | framed e =>
    simp only [finish, results]
    split <;> rfl
  | _ => rfl

theorem Sequence.settle_with_inputs (q : Sequence) (s : State) (ins : List HostInput) :
    q.settle { s with inputs := ins } = { q.settle s with inputs := ins } := by
  cases q with
  | done f => exact s.finish_with_inputs f ins
  | delay ms k => rfl
  | xfer sent k => rfl

theorem Sequence.once_with_inputs (q : Sequence) (s : State) (ins : List HostInput) :
    q.once { s with inputs := ins } = { q.once s with inputs := ins } := by
  cases q with
  | done f => exact s.finish_with_inputs f ins
  | delay ms k => exact k.settle_with_inputs (s.event (.delay ms)) ins
  | xfer sent k =>
    rcases ht : Bus.transfer s.cfg s.trace sent s.bus with ⟨_ | reply, b⟩
    · rw [once, once, State.transfer_none ht, State.transfer_none (s := { s with inputs := ins }) ht]
      rfl
    · rw [once, once, State.transfer_some ht, State.transfer_some (s := { s with inputs := ins }) ht]
      exact (k reply).settle_with_inputs (State.event { s with bus := b } (.xfer sent reply)) ins

theorem advance_with_inputs {s t : State} (h : advance s = .next t) (ins : List HostInput) :
    advance { s with inputs := ins } = .next { t with inputs := ins } := by
  cases hb : s.busy with
  | false =>
    rw [advance_ready hb] at h
    rw [advance_ready (s := { s with inputs := ins }) hb, Host.Outcome.next.inj h]
  | true =>
    have hb' : State.busy { s with inputs := ins } = true := hb
    rw [advance, if_pos hb] at h
    rw [advance, if_pos hb', State.current_inputs]
    cases hc : s.current with
    | none => rw [hc] at h; cases h
    | some q =>
      rw [hc] at h
      rw [← Host.Outcome.next.inj h, ← Sequence.once_with_inputs]

/-! ### Ticks -/

theorem run_succ {s t : State} (k : Nat) (h : step s = .next t) : core.run (k + 1) s = core.run k t := by
  have hcore : core.step s = .next t := h
  simp only [Host.Core.run, hcore]

/-- A tick is time for one event. -/
theorem run_tick {s t : State} (k : Nat) (ins : List HostInput) (h : advance s = .next t) :
    core.run (k + 1) { s with inputs := .tick :: ins } = core.run k { t with inputs := ins } :=
  run_succ k (advance_with_inputs h ins)

/-- As many ticks as the operation in progress has events left, at most `n`, run it to its end. -/
theorem run_ticks {n : Nat} {s : State} {q : Sequence} (hb : s.busy = true) (hc : s.current = some q)
    (hu : q.unfinished = true) (hlen : s.seq.step.toNat ≤ s.trace.length) (hw : q.within n) :
    ∃ k, k ≤ n ∧ core.run k { s with inputs := List.replicate k .tick ++ s.inputs } = .next (q.run s) := by
  induction n generalizing s q with
  | zero => rw [Sequence.unfinished_of_within_zero hw] at hu; cases hu
  | succ n ih =>
    obtain ⟨e, b, q', hq, ha, hu', hc', he⟩ | ⟨e, b, fin, hq, ha, he⟩ | ⟨b, sent, k, rfl, hf, he⟩ :=
      advance_cases hb hc hu hlen
    · have hlt := State.step_lt hlen hc hu
      have hlen' : (State.event { s with bus := b } e).seq.step.toNat ≤
          (State.event { s with bus := b } e).trace.length := by
        simp only [State.event_seq, State.event_trace, List.length_append, List.length_singleton]
        rw [SeqReg.step_succ (by omega)]
        omega
      obtain ⟨k, hk, hrun⟩ := ih (s := State.event { s with bus := b } e) hb hc' hu' hlen'
        (Sequence.within_resume hw hq).2
      refine ⟨k + 1, by omega, ?_⟩
      rw [List.replicate_succ, List.cons_append, run_tick k _ he, Sequence.run_of_resume hq ha]
      exact hrun
    · refine ⟨1, by omega, ?_⟩
      have hin : ((State.event { s with bus := b } e).finish fin).inputs = s.inputs := by simp
      have hrun : q.run s = (State.event { s with bus := b } e).finish fin := by
        rw [Sequence.run_of_answered hq ha]
        exact (State.finish_congr (s.after [e] b) fin _).symm
      rw [hrun, List.replicate_one, List.singleton_append, run_tick 0 _ he, State.with_inputs_self hin]
      rfl
    · refine ⟨1, by omega, ?_⟩
      have hrun : (Sequence.xfer sent k).run s = State.haltBus { s with bus := b } := by
        rw [Sequence.run_of_fails (Sequence.resume_nil _) hf, State.after, List.append_nil]
      rw [hrun, List.replicate_one, List.singleton_append, run_tick 0 _ he]
      rfl

/-! ### A request presented -/

/-- Presenting an operation's bytes accepts the operation, the bytes taken. -/
theorem run_present {i : Instr} {s t : State} (hc : s.cfg.wf = true) (hi : i.wf s.cfg = true) (hb : s.busy = false)
    {ins : List HostInput} (k : Nat) (h : accept i { s with inputs := ins } = .next t) :
    core.run (k + 1) { s with inputs := .present (encode s.cfg i) :: ins } = core.run k t := by
  have hd := requestBytesDecodeToTheirOperation s.cfg i [] hc hi
  rw [List.append_nil] at hd
  have hb' : State.busy { s with inputs := ins } = false := hb
  refine run_succ k ?_
  show request false (encode s.cfg i) { s with inputs := ins } = .next t
  simp only [request, hb', hd]
  exact h

/-- Settles O42: a refusal and an operation without events need no tick, any other one tick per event. -/
theorem eventStepsRefineTheOperation : Obligations.EventStepsRefineTheOperation := by
  intro i s rest hc hi hb
  have hbusy : State.busy { s with inputs := rest } = false := hb
  obtain ⟨hh, ha⟩ | ⟨hr, r, hp, ha⟩ | ⟨hr, w, f, q, hp, ha⟩ := accept_cases i hbusy
  · exact ⟨0, Nat.zero_le _, by rw [exec_eq, perform_halted hbusy hh]; exact run_present hc hi hb 0 ha⟩
  · exact ⟨0, Nat.zero_le _, by rw [exec_eq, perform_refuse hr hp]; exact run_present hc hi hb 0 ha⟩
  · rw [exec_eq, perform_go hr hp]
    by_cases hu : q.unfinished = true
    · obtain ⟨k, hk, hrun⟩ := run_ticks (s := State.started { s with inputs := rest } i w f) rfl
        (State.current_started hp) hu (Nat.zero_le _) (planOf_within hp)
      have hp' : planOf i { s with inputs := List.replicate k .tick ++ rest } = .go w f q := by
        rw [← hp]; exact planOf_congr i rfl rfl
      have ha' := accept_go (s := { s with inputs := List.replicate k .tick ++ rest }) hr hp'
      rw [Sequence.settle_unfinished hu] at ha'
      exact ⟨k, hk, (run_present hc hi hb k ha').trans hrun⟩
    · obtain ⟨fin, rfl⟩ := Sequence.done_of_not_unfinished hu
      exact ⟨0, Nat.zero_le _, run_present hc hi hb 0 ha⟩

end Sys2Proof.Machine
end

section
/-! SUPPORT. Two operations with one plan do the same but for their latches (spec 30_encoding R126): the latches and
the sequencer play no part in a sequence. -/

namespace Sys2Proof.Machine

theorem State.finish_with_latches (s : State) (f : Finish) (l : Latches) :
    State.finish { s with latches := l } f = { s.finish f with latches := l } := by
  cases f with
  | framed e =>
    simp only [finish, results]
    split <;> rfl
  | _ => rfl

/-- How a sequence ends does not depend on the operation that began it, the latches apart. -/
theorem Sequence.run_started (q : Sequence) (s : State) (i j : Instr) (w : Bool) (f : List Byte) :
    { q.run (s.started i w f) with latches := (q.run (s.started j w f)).latches } = q.run (s.started j w f) := by
  obtain ⟨es, b, fin, hq, ha⟩ | ⟨es, b, sent, k, hq, hf⟩ := q.run_cases (s.started i w f)
  · rw [run_of_answered hq ha, run_of_answered (s := s.started j w f) hq ha, State.finish_latches,
      State.results_latches, ← State.finish_with_latches, ← State.finish_congr _ fin (s.started j w f).seq]
    rfl
  · rw [run_of_fails hq hf, run_of_fails (s := s.started j w f) hq hf]
    rfl

/-- Operations with the same plan end in the same state but for the latches, whatever it is that ends them. -/
theorem exec_eq_of_planOf_eq {i j : Instr} {s : State} (hb : s.busy = false) (hp : planOf i s = planOf j s) :
    ∃ t u, exec i s = .next t ∧ exec j s = .next u ∧ { t with latches := u.latches } = u := by
  refine ⟨_, _, exec_eq i s, exec_eq j s, ?_⟩
  cases hh : s.halt with
  | true =>
    rw [perform_halted hb hh, perform_halted hb hh]
    rfl
  | false =>
    have hr : s.Ready := ⟨hb, hh⟩
    cases hj : planOf j s with
    | refuse r =>
      rw [perform_refuse hr (hp.trans hj), perform_refuse hr hj]
      rfl
    | go w f q =>
      rw [perform_go hr (hp.trans hj), perform_go hr hj]
      exact q.run_started s i j w f

/-- The three registers the sequences name are known ones (R8). -/
theorem known_of_wf {c : Config} (h : c.wf = true) : c.chip.known c.chip.regSystemConfig = true ∧
    c.chip.known c.chip.regRxStatus = true ∧ c.chip.known c.chip.regRfStatus = true := by
  simp only [Config.wf, ChipMap.wf, Bool.and_eq_true] at h
  tauto

/-- Settles O23: each pseudo-operation has the plan of the operation it expands into. -/
theorem pseudoOperationsExpand : Obligations.PseudoOperationsExpand := by
  intro s hb hc p hp
  have hidle : planOf .setCommandIdle s =
      planOf (.writeRegisterAndMask s.cfg.chip.regSystemConfig s.cfg.chip.maskCmdClear) s :=
    (if_pos (known_of_wf hc).1).symm
  simp only [List.mem_cons, List.not_mem_nil, or_false] at hp
  obtain rfl | rfl | rfl | rfl | rfl := hp
  · exact exec_eq_of_planOf_eq hb rfl
  · exact exec_eq_of_planOf_eq hb rfl
  · exact exec_eq_of_planOf_eq hb rfl
  · exact exec_eq_of_planOf_eq hb rfl
  · exact exec_eq_of_planOf_eq hb hidle

end Sys2Proof.Machine
end

section
/-! SUPPORT. What the events of an operation are, from what its sequence is made of (spec 20_memory R72, 30_encoding
R103, R105): delays and commands, each command with its delay and its probe; and that nothing but the replies to
probes steers them. -/

namespace Sys2Proof.Machine

/-! ### Events of a command -/

/-- The events of a command at the head of a sequence, wherever a run can stop, which is not before a delay: none;
request and delay, with the probe failing; request, delay and probe, and what follows the reply; request and delay,
and what follows a command without a reply. -/
theorem Sequence.resume_chipCommand_cases {c : Config} {cmd : BusCommand} {n : Nat} {k : List Byte → Sequence}
    {es : List Event} {q' : Sequence} (h : (chipCommand c cmd n k).resume es = some q')
    (hq' : ∀ ms k', q' ≠ .delay ms k') :
    (es = [] ∧ q' = chipCommand c cmd n k) ∨
    (∃ d, es = commandEvents c cmd d ∧ q' = .xfer (rep c.bytes.probeByte n) k) ∨
    (∃ d r rest, 0 < n ∧ es = commandEvents c cmd d ++ .xfer (rep c.bytes.probeByte n) r :: rest ∧
      (k r).resume rest = some q') ∨
    (∃ d rest, n = 0 ∧ es = commandEvents c cmd d ++ rest ∧ (k []).resume rest = some q') := by
  cases es with
  | nil =>
    rw [resume_nil, Option.some.injEq] at h
    exact .inl ⟨rfl, h.symm⟩
  | cons e es =>
    obtain ⟨ms, k', hq, -⟩ | ⟨sent, k', d, hq, rfl, h⟩ := resume_cons h
    · cases hq
    obtain ⟨rfl, rfl⟩ := Sequence.xfer.inj hq
    cases es with
    | nil =>
      rw [resume_nil, Option.some.injEq] at h
      exact absurd h.symm (hq' _ _)
    | cons e es =>
      obtain ⟨ms, k', hq, rfl, h⟩ | ⟨sent, k', reply, hq, -⟩ := resume_cons h
      · obtain ⟨rfl, rfl⟩ := Sequence.delay.inj hq
        split at h
        · next hn =>
          cases es with
          | nil =>
            rw [resume_nil, Option.some.injEq] at h
            exact .inr (.inl ⟨d, rfl, h.symm⟩)
          | cons e es =>
            obtain ⟨ms, k', hq, -⟩ | ⟨sent, k', r, hq, rfl, h⟩ := resume_cons h
            · cases hq
            obtain ⟨rfl, rfl⟩ := Sequence.xfer.inj hq
            exact .inr (.inr (.inl ⟨d, r, es, hn, rfl, h⟩))
        · next hn => exact .inr (.inr (.inr ⟨d, es, by omega, rfl, h⟩))
      · cases hq

/-- Events that are delays, commands with their delay, and probes. -/
inductive Conversation (c : Config) : List Event → Prop where
  | nil : Conversation c []
  | delay (ms : Nat) {es : List Event} : Conversation c es → Conversation c (.delay ms :: es)
  | command (cmd : BusCommand) (d : List Byte) {es : List Event} :
    Conversation c es → Conversation c (commandEvents c cmd d ++ es)
  | probe {n : Nat} (hn : 0 < n) (r : List Byte) {es : List Event} :
    Conversation c es → Conversation c (.xfer (rep c.bytes.probeByte n) r :: es)

theorem Sequence.Built.conversation {c : Config} {q q' : Sequence} {es : List Event} (hb : q.Built c)
    (h : q.resume es = some q') (hq' : ∀ ms k, q' ≠ .delay ms k) : Conversation c es := by
  induction hb generalizing es with
  | done f =>
    obtain ⟨rfl, -⟩ := resume_done_iff.mp h
    exact .nil
  | wait ms k _ ih =>
    cases es with
    | nil => exact .nil
    | cons e es =>
      obtain ⟨ms', k', hq, rfl, h⟩ | ⟨sent, k', reply, hq, -⟩ := resume_cons h
      · obtain ⟨rfl, rfl⟩ := Sequence.delay.inj hq
        exact .delay ms (ih h)
      · cases hq
  | command cmd n k _ ih =>
    obtain ⟨rfl, -⟩ | ⟨d, rfl, -⟩ | ⟨d, r, rest, hn, rfl, hrest⟩ | ⟨d, rest, -, rfl, hrest⟩ :=
      resume_chipCommand_cases h hq'
    · exact .nil
    · exact .command cmd d .nil
    · exact .command cmd d (.probe hn r (ih r hrest))
    · exact .command cmd d (ih [] hrest)

/-! ### Events of an operation -/

theorem newEvents_of_append {s t : State} {es : List Event} (h : t.trace = s.trace ++ es) : newEvents s t = es := by
  rw [newEvents, h, List.drop_left]

theorem newEvents_of_same {s t : State} (h : t.trace = s.trace) : newEvents s t = [] :=
  newEvents_of_append (h.trans (List.append_nil _).symm)

theorem newEvents_finish (s : State) (i : Instr) (w : Bool) (f : List Byte) (es : List Event) (b : Bus) (fin : Finish) :
    newEvents s (((s.started i w f).after es b).finish fin) = es :=
  newEvents_of_append (by rw [State.finish_trace, State.results_trace]; rfl)

/-- What an operation adds to the trace is a conversation, to its end or to a failed transfer. -/
theorem exec_conversation {i : Instr} {s t : State} (h : exec i s = .next t) :
    Conversation s.cfg (newEvents s t) := by
  have quiet : t.trace = s.trace → Conversation s.cfg (newEvents s t) := fun ht =>
    newEvents_of_same ht ▸ .nil
  obtain ⟨-, he⟩ | ⟨-, -, he⟩ | ⟨-, r, -, he⟩ | ⟨-, w, f, q, es, b, fin, hp, hq, -, he⟩ |
    ⟨-, w, f, q, es, b, sent, k, hp, hq, -, he⟩ := exec_cases i s <;>
    obtain rfl := Host.Outcome.next.inj (he.symm.trans h)
  · exact quiet rfl
  · exact quiet rfl
  · exact quiet rfl
  · rw [newEvents_finish]
    exact (planOf_built hp).conversation hq fun _ _ => by simp
  · rw [newEvents_of_append (es := es) rfl]
    exact (planOf_built hp).conversation hq fun _ _ => by simp

/-! ### Commands and probes -/

theorem isProbe_rep (c : Config) (n : Nat) : isProbe c (rep c.bytes.probeByte n) = true := by
  simp [isProbe, rep]

theorem frame_head_mem (c : Config) (cmd : BusCommand) : ∃ op ps, cmd.frame c = op :: ps ∧ op ∈ c.opc.all := by
  cases cmd <;> exact ⟨_, _, rfl, by simp [Opcodes.all]⟩

/-- A command's frame is no probe: it begins with an opcode (R105). -/
theorem isProbe_frame {c : Config} (hc : c.wf = true) (cmd : BusCommand) : isProbe c (cmd.frame c) = false := by
  obtain ⟨op, ps, hf, hop⟩ := frame_head_mem c cmd
  have hne : op ≠ c.bytes.probeByte := fun he => Config.probeByte_not_mem hc (he ▸ hop)
  simp [isProbe, hf, hne]

theorem Conversation.wellSpoken {c : Config} (hc : c.wf = true) {es : List Event} (h : Conversation c es) :
    wellSpoken c es := by
  induction h with
  | nil => trivial
  | delay ms _ ih => exact ih
  | command cmd d _ ih => exact ⟨.inl ⟨cmd, decodeBusFrame_frame hc cmd⟩, ih⟩
  | probe hn r _ ih => exact ⟨.inr ⟨isProbe_rep c _, by simp [rep]; omega⟩, ih⟩

theorem Conversation.wellSettled {c : Config} {es : List Event} (h : Conversation c es) : wellSettled c es := by
  induction h with
  | nil => trivial
  | delay ms _ ih => exact ih
  | command cmd d _ ih => exact ⟨.inr rfl, ih⟩
  | probe hn r _ ih => exact ⟨.inl (isProbe_rep c _), ih⟩

/-- Settles O37: an operation's events are a conversation. -/
theorem transfersAreCommandsOrProbes : Obligations.TransfersAreCommandsOrProbes :=
  fun _ _ _ hc h => (exec_conversation h).wellSpoken hc

/-- Settles O38: in a conversation a command comes with its delay. -/
theorem requestsAreSettled : Obligations.RequestsAreSettled :=
  fun _ _ _ _ h => (exec_conversation h).wellSettled

/-! ### What steers a sequence -/

theorem probeReplies_command {c : Config} (hc : c.wf = true) (cmd : BusCommand) (d : List Byte) (es : List Event) :
    probeReplies c (commandEvents c cmd d ++ es) = probeReplies c es := by
  simp [commandEvents, probeReplies, isProbe_frame hc]

theorem probeReplies_probe (c : Config) (n : Nat) (r : List Byte) (es : List Event) :
    probeReplies c (.xfer (rep c.bytes.probeByte n) r :: es) = r :: probeReplies c es := by
  simp [probeReplies, isProbe_rep]

theorem shapeOf_command (c : Config) (cmd : BusCommand) (d : List Byte) (es : List Event) :
    shapeOf (commandEvents c cmd d ++ es) = .inl (cmd.frame c) :: .inr c.time.tCmd :: shapeOf es := rfl

/-- A command is passed over on the way to an end: with a reply where it has one, whatever its request returned. -/
theorem Sequence.resume_chipCommand_done {c : Config} {cmd : BusCommand} {n : Nat} {k : List Byte → Sequence}
    {es : List Event} {f : Finish} (h : (chipCommand c cmd n k).resume es = some (.done f)) :
    (∃ d r rest, 0 < n ∧ es = commandEvents c cmd d ++ .xfer (rep c.bytes.probeByte n) r :: rest ∧
      (k r).resume rest = some (.done f)) ∨
    (∃ d rest, n = 0 ∧ es = commandEvents c cmd d ++ rest ∧ (k []).resume rest = some (.done f)) := by
  obtain ⟨-, hd⟩ | ⟨d, -, hd⟩ | h | h := resume_chipCommand_cases h fun _ _ => by simp
  · cases hd
  · cases hd
  · exact .inl h
  · exact .inr h

/-- With the same probe replies a sequence sends the same, waits the same and comes to the same end (R72, R140). -/
theorem Sequence.Built.end_eq_of_probeReplies_eq {c : Config} (hc : c.wf = true) {q : Sequence} (hb : q.Built c)
    {es es' : List Event} {f f' : Finish} (h : q.resume es = some (.done f)) (h' : q.resume es' = some (.done f'))
    (hr : probeReplies c es = probeReplies c es') : f = f' ∧ shapeOf es = shapeOf es' := by
  induction hb generalizing es es' with
  | done g =>
    obtain ⟨rfl, hf⟩ := resume_done_iff.mp h
    obtain ⟨rfl, hf'⟩ := resume_done_iff.mp h'
    exact ⟨Sequence.done.inj (hf.trans hf'.symm), rfl⟩
  | wait ms k _ ih =>
    cases es with
    | nil => cases h
    | cons e es =>
      cases es' with
      | nil => cases h'
      | cons e' es' =>
        obtain ⟨ms₁, k₁, hq, rfl, h⟩ | ⟨sent, k₁, reply, hq, -⟩ := resume_cons h
        · obtain ⟨ms₂, k₂, hq', rfl, h'⟩ | ⟨sent, k₂, reply, hq', -⟩ := resume_cons h'
          · obtain ⟨rfl, rfl⟩ := Sequence.delay.inj hq
            obtain ⟨rfl, rfl⟩ := Sequence.delay.inj hq'
            obtain ⟨hf, hs⟩ := ih h h' hr
            exact ⟨hf, by rw [shapeOf, shapeOf, hs]⟩
          · cases hq'
        · cases hq
  | command cmd n k _ ih =>
    obtain ⟨d, r, rest, hn, rfl, hk⟩ | ⟨d, rest, hn, rfl, hk⟩ := resume_chipCommand_done h <;>
      obtain ⟨d', r', rest', hn', rfl, hk'⟩ | ⟨d', rest', hn', rfl, hk'⟩ := resume_chipCommand_done h'
    · simp only [probeReplies_command hc, probeReplies_probe, List.cons.injEq] at hr
      obtain ⟨rfl, hr⟩ := hr
      obtain ⟨hf, hs⟩ := ih r hk hk' hr
      exact ⟨hf, by rw [shapeOf_command, shapeOf_command, shapeOf, shapeOf, hs]⟩
    · omega
    · omega
    · rw [probeReplies_command hc, probeReplies_command hc] at hr
      obtain ⟨hf, hs⟩ := ih [] hk hk' hr
      exact ⟨hf, by rw [shapeOf_command, shapeOf_command, hs]⟩

/-! ### Two runs -/

/-- The state with another history and another bus. -/
def State.on (s : State) (tr : List Event) (b : Bus) : State := { s with trace := tr, bus := b }

theorem State.finish_on (s : State) (f : Finish) (tr : List Event) (b : Bus) :
    (s.on tr b).finish f = (s.finish f).on tr b := by
  cases f with
  | framed e =>
    simp only [finish, results]
    split <;> rfl
  | _ => rfl

/-- A run that is not stopped by the bus comes to one of its sequence's ends. -/
theorem exec_done_of_not_halted {i : Instr} {s t : State} {w : Bool} {f : List Byte} {q : Sequence} (hr : s.Ready)
    (hp : planOf i s = .go w f q) (h : exec i s = .next t) (hh : t.halt = false) :
    ∃ es b fin, q.resume es = some (.done fin) ∧ t = ((s.started i w f).after es b).finish fin := by
  obtain ⟨es, b, fin, hq, ha⟩ | ⟨es, b, sent, k, hq, hf⟩ := q.run_cases s
  · obtain rfl := Host.Outcome.next.inj ((exec_of_answered hr hp hq ha).symm.trans h)
    exact ⟨es, b, fin, hq, rfl⟩
  · obtain rfl := Host.Outcome.next.inj ((exec_of_fails hr hp hq hf).symm.trans h)
    cases hh

/-- A refusal looks at neither trace nor bus, and a sequence at its probe replies alone. -/
theorem exec_on {i : Instr} {s t t' : State} {tr : List Event} {b : Bus} (hc : s.cfg.wf = true)
    (h : exec i s = .next t) (h' : exec i (s.on tr b) = .next t') (hh : t.halt = false) (hh' : t'.halt = false)
    (hpr : probeReplies s.cfg (newEvents s t) = probeReplies s.cfg (newEvents (s.on tr b) t')) :
    t' = t.on t'.trace t'.bus ∧ shapeOf (newEvents s t) = shapeOf (newEvents (s.on tr b) t') := by
  have hplan : planOf i (s.on tr b) = planOf i s := planOf_congr i rfl rfl
  have quiet : t.trace = s.trace → t'.trace = (s.on tr b).trace →
      shapeOf (newEvents s t) = shapeOf (newEvents (s.on tr b) t') := fun ht ht' => by
    rw [newEvents_of_same ht, newEvents_of_same ht']
  obtain ⟨hb, he⟩ | ⟨-, hhalt, he⟩ | ⟨hr, r, hp, he⟩ | ⟨hr, w, f, q, es, bus, fin, hp, hq, -, he⟩ |
    ⟨-, w, f, q, es, bus, sent, k, -, -, -, he⟩ := exec_cases i s <;>
    obtain rfl := Host.Outcome.next.inj (he.symm.trans h)
  · rw [exec_eq, perform_busy (s := s.on tr b) hb] at h'
    obtain rfl := Host.Outcome.next.inj h'
    exact ⟨rfl, quiet rfl rfl⟩
  · exact absurd (hhalt.symm.trans hh) (by decide)
  · rw [exec_eq, perform_refuse (s := s.on tr b) hr (hplan.trans hp)] at h'
    obtain rfl := Host.Outcome.next.inj h'
    exact ⟨rfl, quiet rfl rfl⟩
  · obtain ⟨es', bus', fin', hq', rfl⟩ := exec_done_of_not_halted (s := s.on tr b) hr (hplan.trans hp) h' hh'
    rw [newEvents_finish, newEvents_finish] at hpr ⊢
    obtain ⟨rfl, hshape⟩ := (planOf_built hp).end_eq_of_probeReplies_eq hc hq hq' hpr
    refine ⟨?_, hshape⟩
    have hafter : ((s.on tr b).started i w f).after es' bus' = ((s.started i w f).after es bus).on (tr ++ es') bus' :=
      rfl
    rw [hafter, State.finish_on]
    rfl
  · cases hh

/-- Settles O39. -/
theorem resultsDependOnProbeRepliesOnly : Obligations.ResultsDependOnProbeRepliesOnly := by
  intro i s1 s2 t1 t2 hc hs h1 h2 hh1 hh2 hpr
  obtain ⟨tr, bus, rfl⟩ : ∃ tr bus, s2 = s1.on tr bus := ⟨s2.trace, s2.bus, hs⟩
  exact exec_on hc h1 h2 hh1 hh2 hpr

end Sys2Proof.Machine
end

section
/-! SUPPORT. Fields of a chip register value (spec 10_state R42 to R44), bit by bit, and what a configuration that
meets R8 says of the fields and masks it names. -/

namespace Sys2Proof

/-! ### Fields -/

theorem getLsbD_fieldMask (lo n i : Nat) :
    (fieldMask lo n).getLsbD i = (decide (i < 32) && (decide (lo ≤ i) && decide (i < lo + n))) := by
  simp only [fieldMask, BitVec.getLsbD_shiftLeft, BitVec.getLsbD_ofNat, Nat.testBit_two_pow_sub_one]
  grind

theorem getLsbD_fieldOf (lo n i : Nat) (v : Word) :
    (fieldOf lo n v).getLsbD i = (v.getLsbD (lo + i) && decide (i < n)) := by
  have hout : 32 ≤ i → v.getLsbD (lo + i) = false := fun hi => BitVec.getLsbD_of_ge v (lo + i) (by omega)
  simp only [fieldOf, BitVec.getLsbD_and, BitVec.getLsbD_ushiftRight, BitVec.getLsbD_ofNat,
    Nat.testBit_two_pow_sub_one]
  grind

/-- A field is empty where it has been masked out. -/
theorem fieldOf_clear (lo n : Nat) (v : Word) : fieldOf lo n (v &&& ~~~ fieldMask lo n) = 0 := by
  refine BitVec.eq_of_getLsbD_eq fun i hi => ?_
  simp only [getLsbD_fieldOf, BitVec.getLsbD_and, BitVec.getLsbD_not, getLsbD_fieldMask]
  grind

/-- A value that fits a field is what an empty field holds once the value is set. -/
theorem fieldOf_set {lo n : Nat} (hlo : lo + n ≤ 32) {x : Word} (hx : x.toNat < 2 ^ n) {v : Word}
    (hv : fieldOf lo n v = 0) : fieldOf lo n (v ||| x <<< lo) = x := by
  refine BitVec.eq_of_getLsbD_eq fun i hi => ?_
  have hvi : (v.getLsbD (lo + i) && decide (i < n)) = false := by rw [← getLsbD_fieldOf, hv]; simp
  have hxi : n ≤ i → x.getLsbD i = false := fun hni =>
    Nat.testBit_lt_two_pow (hx.trans_le (Nat.pow_le_pow_right (by decide) hni))
  simp only [getLsbD_fieldOf, BitVec.getLsbD_or, BitVec.getLsbD_shiftLeft]
  grind

theorem field3_setField3 {lo : Nat} (hlo : lo + 3 ≤ 32) (f : BitVec 3) (v : Word) :
    field3 lo (setField3 lo f v) = f := by
  refine BitVec.eq_of_getLsbD_eq fun i hi => ?_
  simp only [field3, setField3, BitVec.getLsbD_extractLsb', BitVec.getLsbD_or, BitVec.getLsbD_and,
    BitVec.getLsbD_not, getLsbD_fieldMask, BitVec.getLsbD_shiftLeft, BitVec.getLsbD_setWidth]
  grind

/-- The bits outside the field are as before. -/
theorem setField3_outside (lo : Nat) (f : BitVec 3) (v : Word) :
    setField3 lo f v &&& ~~~ fieldMask lo 3 = v &&& ~~~ fieldMask lo 3 := by
  refine BitVec.eq_of_getLsbD_eq fun i hi => ?_
  have hf : 3 ≤ i - lo → f.getLsbD (i - lo) = false := fun h => BitVec.getLsbD_of_ge f (i - lo) h
  simp only [setField3, BitVec.getLsbD_or, BitVec.getLsbD_and, BitVec.getLsbD_not, getLsbD_fieldMask,
    BitVec.getLsbD_shiftLeft, BitVec.getLsbD_setWidth]
  grind

theorem lowBits_ofNat {n len : Nat} (h : len < 2 ^ n) (h32 : len < 2 ^ 32) : lowBits n (BitVec.ofNat 32 len) = len := by
  rw [lowBits, BitVec.toNat_ofNat, Nat.mod_eq_of_lt h32, Nat.mod_eq_of_lt h]

/-! ### The parameters -/

theorem Config.chip_wf {c : Config} (h : c.wf = true) : c.chip.wf 32 = true := by
  simp only [Config.wf, Widths.wf, Bool.and_eq_true, beq_iff_eq] at h
  have hw : c.width.regWidth = 32 := by tauto
  rw [← hw]
  tauto

theorem Config.cmdIdle_eq {c : Config} (h : c.wf = true) : c.chip.cmdIdle = 0 := by
  simp only [Config.wf, Bool.and_eq_true, beq_iff_eq] at h
  tauto

theorem Config.rxMax_lt_rxLenBits {c : Config} (h : c.wf = true) : c.limits.rxMax < 2 ^ c.limits.rxLenBits := by
  simp only [Config.wf, Bool.and_eq_true, decide_eq_true_eq] at h
  tauto

/-- The command field and the masks that set it (R8, R42). -/
theorem ChipMap.cmdField_of_wf {m : ChipMap} (h : m.wf 32 = true) :
    m.cmdFieldLo + m.cmdFieldBits ≤ 32 ∧ m.cmdTransceive.toNat < 2 ^ m.cmdFieldBits ∧
      m.maskCmdClear = ~~~ (fieldMask m.cmdFieldLo m.cmdFieldBits) ∧
      m.maskCmdTransceive = m.cmdTransceive <<< m.cmdFieldLo := by
  simp only [ChipMap.wf, Bool.and_eq_true, decide_eq_true_eq, beq_iff_eq] at h
  tauto

theorem ChipMap.tstateField_of_wf {m : ChipMap} (h : m.wf 32 = true) : m.tstateFieldLo + 3 ≤ 32 := by
  simp only [ChipMap.wf, Bool.and_eq_true, decide_eq_true_eq] at h
  tauto

theorem ChipMap.regRxStatus_ne {m : ChipMap} (h : m.wf 32 = true) : m.regRxStatus ≠ m.regRfStatus := by
  simp only [ChipMap.wf, Bool.and_eq_true, decide_eq_true_eq, List.nodup_cons, List.mem_cons, not_or,
    List.not_mem_nil, or_false] at h
  tauto

end Sys2Proof
end

section
/-! SUPPORT. The reference responder (spec 20_memory R90 to R95): what it answers to a command and to its probe, a
register written and read back, and the whole exchange with the tag. -/

namespace Sys2Proof.Machine

/-! ### One register -/

/-- A register written is read back as it is held (R92). -/
theorem Responder.readReg_writeReg {r : Responder} (h : r.reg.wf = true) (a : Byte) (v : Word) :
    (r.writeReg a v).readReg a = v := by
  have hbytes := Memory.readBytes_writeBytes h (regBase a) (le32 v)
  rw [Responder.readReg, Responder.writeReg, show (4 : Nat) = (le32 v).length from rfl, hbytes, de32_le32]

theorem Responder.writeReg_wf {r : Responder} (h : r.reg.wf = true) (a : Byte) (v : Word) :
    (r.writeReg a v).reg.wf = true := Memory.writeBytes_wf h _ _

theorem Responder.readValue_of_ne {c : Config} {a : Byte} (h : a ≠ c.chip.regRfStatus) (r : Responder) :
    r.readValue c a = r.readReg a := if_neg h

theorem Responder.readValue_rfStatus (c : Config) (r : Responder) : r.readValue c c.chip.regRfStatus =
    setField3 c.chip.tstateFieldLo (r.tstateField c) (r.readReg c.chip.regRfStatus) := if_pos rfl

theorem TState.ofField_toField (x : TState) : TState.ofField x.toField = x := by cases x <;> rfl

/-- The state shown while the command field holds TRANSCEIVE (R92). -/
theorem Responder.tstateOf_rfStatus {c : Config} (hc : c.wf = true) {r : Responder} (hf : r.forceTstate = none)
    (hcmd : cmdOf c (r.readReg c.chip.regSystemConfig) = c.chip.cmdTransceive) :
    tstateOf c (r.readValue c c.chip.regRfStatus) = .waitTransmit := by
  have htstate : r.tstateField c = TState.waitTransmit.toField := by rw [tstateField, hf]; exact if_pos hcmd
  rw [tstateOf, readValue_rfStatus, field3_setField3 (ChipMap.tstateField_of_wf (Config.chip_wf hc)), htstate,
    TState.ofField_toField]

/-! ### Transfers -/

theorem Responder.transfer_frame {c : Config} (hc : c.wf = true) {r : Responder} (hp : r.pending = [])
    (cmd : BusCommand) : r.transfer c (cmd.frame c) = (rep 0xFF (cmd.frame c).length, r.execute c cmd) := by
  simp [transfer, hp, decodeBusFrame_frame hc]

theorem padFF_self (bs : List Byte) : padFF bs.length bs = bs := by simp [padFF, rep]

theorem Responder.transfer_probe (c : Config) {r : Responder} (hp : r.pending ≠ []) :
    r.transfer c (rep c.bytes.probeByte r.pending.length) = (r.pending, { r with pending := [] }) := by
  have hlen : (rep c.bytes.probeByte r.pending.length).length = r.pending.length := List.length_replicate
  rw [transfer, if_neg hp, hlen, padFF_self]

/-- The responder answers these events, whatever came before them, and is `r'` after them. -/
def Responder.Answers (c : Config) (r : Responder) (es : List Event) (r' : Responder) : Prop :=
  ∀ tr, busAfter c es tr (.responder r none) = some (.responder r' none)

theorem Responder.Answers.answered {s : State} {r r' : Responder} {es : List Event}
    (h : r.Answers s.cfg es r') (hb : s.bus = .responder r none) : Answered s es (.responder r' none) := by
  rw [Answered, hb]
  exact h s.trace

theorem Responder.Answers.append {c : Config} {r r' r'' : Responder} {es es' : List Event}
    (h : r.Answers c es r') (h' : r'.Answers c es' r'') : r.Answers c (es ++ es') r'' := fun tr => by
  rw [busAfter_append, h tr]
  exact h' (tr ++ es)

theorem Responder.answers_delay (c : Config) (r : Responder) (ms : Nat) : r.Answers c [.delay ms] r := fun _ => rfl

/-- What comes back while a request is sent: 0xFF for each byte (R91). -/
def discarded (c : Config) (cmd : BusCommand) : List Byte := rep 0xFF (cmd.frame c).length

section Commands
variable {c : Config} (hc : c.wf = true) {r : Responder} (hp : r.pending = [])
include hc hp

theorem Responder.answers_command (cmd : BusCommand) :
    r.Answers c (commandEvents c cmd (discarded c cmd)) (r.execute c cmd) := fun tr => by
  simp [commandEvents, busAfter, Bus.transfer, transfer_frame hc hp, discarded]

/-- A command that does nothing but hold a reply for the probe leaves the responder as it was (R91). -/
theorem Responder.answers_reply {cmd : BusCommand} {reply : List Byte}
    (hx : r.execute c cmd = { r with pending := reply }) :
    r.Answers c (replyEvents c cmd (discarded c cmd) reply) r := by
  have hback : { r with pending := [] } = r := by rw [← hp]
  have hcmd := answers_command hc hp cmd
  rw [hx] at hcmd
  refine hcmd.append fun tr => ?_
  by_cases hr : reply = []
  · rw [if_pos hr, hr, hback]
    rfl
  · have hprobe := transfer_probe c (r := { r with pending := reply }) hr
    simp only [hback] at hprobe
    simp [hr, busAfter, Bus.transfer, hprobe]

/-- A known register read shows its value (R92). -/
theorem Responder.answers_readRegister {a : Byte} (ha : c.chip.known a = true) :
    r.Answers c (replyEvents c (.readRegister a) (discarded c (.readRegister a)) (le32 (r.readValue c a))) r :=
  answers_reply hc hp (if_pos ha)

/-- A read of the data received (R94). -/
theorem Responder.answers_readData (x : Byte) :
    r.Answers c (replyEvents c (.readData x) (discarded c (.readData x)) r.rxbuf) r :=
  answers_reply hc hp rfl

theorem Responder.answers_writeRegister {a : Byte} (ha : c.chip.known a = true) (v : Word) :
    r.Answers c (commandEvents c (.writeRegister a v) (discarded c (.writeRegister a v))) (r.writeReg a v) := by
  have h := answers_command hc hp (.writeRegister a v)
  rwa [show r.execute c (.writeRegister a v) = r.writeReg a v from if_pos ha] at h

end Commands

/-! ### A register written and read back -/

section Registers
variable {s : State} (h : s.Ready) (hc : s.cfg.wf = true) {chip : Responder} (hbus : s.bus = .responder chip none)
  (hp : chip.pending = []) {a : Byte} (ha : s.cfg.chip.known a = true)
include h hc hbus hp ha

/-- `WRITE_REGISTER` against the responder (R92, R142). -/
theorem exec_writeRegister_responder (v : Word) : ∃ es, exec (.writeRegister a v) s =
    .next (s.afterOk (.writeRegister a v) es (.responder (chip.writeReg a v) none)) := by
  have hplan : planOf (.writeRegister a v) s =
      .plain (chipCommand s.cfg (.writeRegister a v) 0 fun _ => .done .ok) := if_pos ha
  have hq := Sequence.resume_command s.cfg (.writeRegister a v) (discarded s.cfg (.writeRegister a v))
    (fun _ => .done .ok) []
  rw [List.append_nil, Sequence.resume_nil] at hq
  exact ⟨_, exec_of_answered h hplan hq ((Responder.answers_writeRegister hc hp ha v).answered hbus)⟩

/-- `READ_REGISTER` against the responder (R92, R145). -/
theorem exec_readRegister_responder : ∃ es, exec (.readRegister a) s =
    .next { s.afterOk (.readRegister a) es (.responder chip none) with resValue := chip.readValue s.cfg a } := by
  have hplan : planOf (.readRegister a) s = .plain (readRegister s.cfg a fun v => .done (.value v)) := if_pos ha
  have hq := Sequence.resume_chipCommand s.cfg (.readRegister a) (discarded s.cfg (.readRegister a))
    (le32 (chip.readValue s.cfg a)) (fun reply => .done (.value (de32 reply))) []
  rw [List.append_nil, Sequence.resume_nil, de32_le32, show (le32 (chip.readValue s.cfg a)).length =
    s.cfg.limits.regReadLen from (regReadLen_of_wf hc).symm] at hq
  exact ⟨_, exec_of_answered h hplan hq ((Responder.answers_readRegister hc hp ha).answered hbus)⟩

end Registers

/-- Settles O50: the read shows the value written, with the state bits substituted in the RF status register. -/
theorem writtenRegisterReadsBack : Obligations.WrittenRegisterReadsBack := by
  intro s chip a v h hc hbus hp hw ha
  obtain ⟨es, ht⟩ := exec_writeRegister_responder h hc hbus hp ha v
  obtain ⟨es', hu⟩ := exec_readRegister_responder
    (s := s.afterOk (.writeRegister a v) es (.responder (chip.writeReg a v) none)) ⟨rfl, h.2⟩ hc rfl hp ha
  have hread := Responder.readReg_writeReg hw a v
  refine ⟨_, _, ht, hu, rfl, fun hne => ?_, ?_⟩
  · exact (Responder.readValue_of_ne hne _).trans hread
  · rintro rfl
    show (chip.writeReg _ v).readValue s.cfg _ &&& _ = _
    rw [Responder.readValue_rfStatus, setField3_outside, hread]

end Sys2Proof.Machine
end

section
/-! SUPPORT. The exchange with the tag against the reference responder (spec 20_memory R92, R94; 41_device_control
R180): its command field set, the frame sent, the answer counted and fetched, the field released. -/

namespace Sys2Proof.Machine

/-! ### What the commands of an exchange do -/

/-- The command field at IDLE (R172). -/
def Responder.released (c : Config) (r : Responder) : Responder :=
  r.writeReg c.chip.regSystemConfig (r.readReg c.chip.regSystemConfig &&& c.chip.maskCmdClear)

/-- The command field at TRANSCEIVE (R173). -/
def Responder.acquired (c : Config) (r : Responder) : Responder :=
  (r.released c).writeReg c.chip.regSystemConfig
    ((r.released c).readReg c.chip.regSystemConfig ||| c.chip.maskCmdTransceive)

/-- The frame sent, the tag's answer held and counted (R94). -/
def Responder.sentFrame (c : Config) (frame : List Byte) (r : Responder) : Responder :=
  { r with txbuf := frame, rxbuf := r.answer frame }.writeReg c.chip.regRxStatus
    (BitVec.ofNat 32 (r.answer frame).length)

theorem Responder.released_wf (c : Config) {r : Responder} (hw : r.reg.wf = true) : (r.released c).reg.wf = true :=
  writeReg_wf hw _ _

theorem Responder.acquired_wf (c : Config) {r : Responder} (hw : r.reg.wf = true) : (r.acquired c).reg.wf = true :=
  writeReg_wf (released_wf c hw) _ _

theorem Responder.sentFrame_wf (c : Config) (frame : List Byte) {r : Responder} (hw : r.reg.wf = true) :
    (r.sentFrame c frame).reg.wf = true :=
  writeReg_wf (r := { r with txbuf := frame, rxbuf := r.answer frame }) hw _ _

section Registers
variable {c : Config} (hc : c.wf = true) {r : Responder} (hw : r.reg.wf = true)
include hc hw

theorem Responder.cmdOf_released :
    cmdOf c ((r.released c).readReg c.chip.regSystemConfig) = c.chip.cmdIdle := by
  obtain ⟨-, -, hclear, -⟩ := ChipMap.cmdField_of_wf (Config.chip_wf hc)
  rw [released, readReg_writeReg hw, hclear, Config.cmdIdle_eq hc]
  exact fieldOf_clear _ _ _

theorem Responder.cmdOf_acquired :
    cmdOf c ((r.acquired c).readReg c.chip.regSystemConfig) = c.chip.cmdTransceive := by
  obtain ⟨hlo, hfits, -, hset⟩ := ChipMap.cmdField_of_wf (Config.chip_wf hc)
  have hidle := cmdOf_released hc hw
  rw [Config.cmdIdle_eq hc] at hidle
  rw [acquired, readReg_writeReg (released_wf c hw), hset]
  exact fieldOf_set hlo hfits hidle

/-- The count of an answer within `RX_MAX` is read as it is (R44, R94). -/
theorem Responder.rxLenOf_sentFrame {frame : List Byte} (hlen : (r.answer frame).length ≤ c.limits.rxMax) :
    rxLenOf c ((r.sentFrame c frame).readValue c c.chip.regRxStatus) = (r.answer frame).length := by
  have hbits := Config.rxMax_lt_rxLenBits hc
  have hmax := Config.rxMax_lt hc
  rw [readValue_of_ne (ChipMap.regRxStatus_ne (Config.chip_wf hc)), sentFrame,
    readReg_writeReg (r := { r with txbuf := frame, rxbuf := r.answer frame }) hw]
  exact lowBits_ofNat (by omega) (by omega)

end Registers

/-! ### The events of an exchange -/

section Events
variable {c : Config} (hc : c.wf = true) {r : Responder} (hp : r.pending = [])
include hc hp

theorem Responder.answers_idle : ∃ d, r.Answers c (idleEvents c d) (r.released c) := by
  have h := answers_command hc hp (.writeRegisterAndMask c.chip.regSystemConfig c.chip.maskCmdClear)
  rw [show r.execute c (.writeRegisterAndMask c.chip.regSystemConfig c.chip.maskCmdClear) = r.released c from
    if_pos (known_of_wf hc).1] at h
  exact ⟨_, h⟩

theorem Responder.answers_acquire : ∃ d d', r.Answers c (acquireEvents c d d') (r.acquired c) := by
  obtain ⟨d, hidle⟩ := answers_idle hc hp
  have h := answers_command hc (r := r.released c) hp
    (.writeRegisterOrMask c.chip.regSystemConfig c.chip.maskCmdTransceive)
  rw [show (r.released c).execute c (.writeRegisterOrMask c.chip.regSystemConfig c.chip.maskCmdTransceive) =
    r.acquired c from if_pos (known_of_wf hc).1] at h
  exact ⟨d, _, hidle.append h⟩

/-- Events 0 to 6: acquired, and the RF status shown (R180). -/
theorem Responder.answers_head : ∃ d0 d1 d2, r.Answers c
    (transceiveHead c d0 d1 d2 (le32 ((r.acquired c).readValue c c.chip.regRfStatus))) (r.acquired c) := by
  obtain ⟨d0, d1, h⟩ := answers_acquire hc hp
  exact ⟨d0, d1, _, h.append (answers_readRegister hc (r := r.acquired c) hp (known_of_wf hc).2.2)⟩

/-- Events 7 to 12: the frame sent, and the RX status shown (R180). -/
theorem Responder.answers_middle (frame : List Byte) : ∃ d3 d4, r.Answers c
    (transceiveMiddle c frame d3 d4 (le32 ((r.sentFrame c frame).readValue c c.chip.regRxStatus)))
    (r.sentFrame c frame) := by
  have hsend := answers_command hc hp (.sendData c.bytes.sendAllBits frame)
  have hread := answers_readRegister hc (r := r.sentFrame c frame) hp (known_of_wf hc).2.1
  exact ⟨_, _, (hsend.append (answers_delay c _ _)).append hread⟩

/-- The last events: the data received fetched, and the field released (R180). -/
theorem Responder.answers_tail : ∃ d5 d6, r.Answers c (transceiveTail c d5 r.rxbuf d6) (r.released c) := by
  obtain ⟨d6, hidle⟩ := answers_idle hc hp
  exact ⟨_, d6, (answers_readData hc hp c.bytes.readDataParam).append hidle⟩

/-- The whole exchange, for an answer within `RX_MAX`: the sequence ends with the tag's answer as the bytes
received (R180). -/
theorem transceiveSequence_responder (hf : r.forceTstate = none) (hw : r.reg.wf = true) {frame : List Byte}
    (hlen : (r.answer frame).length ≤ c.limits.rxMax) (fin : Exchange → Finish) : ∃ es,
    (transceiveSequence c frame fin).resume es = some (.done (fin (received c (r.answer frame)))) ∧
    r.Answers c es (((r.acquired c).sentFrame c frame).released c) := by
  obtain ⟨d0, d1, d2, hhead⟩ := Responder.answers_head hc hp
  obtain ⟨d3, d4, hmiddle⟩ := Responder.answers_middle hc (r := r.acquired c) hp frame
  obtain ⟨d5, d6, htail⟩ := Responder.answers_tail hc (r := (r.acquired c).sentFrame c frame) hp
  have hstate := Responder.tstateOf_rfStatus hc (r := r.acquired c) hf (Responder.cmdOf_acquired hc hw)
  have hcount := Responder.rxLenOf_sentFrame hc (Responder.acquired_wf c hw) (frame := frame) hlen
  rw [← de32_le32 ((r.acquired c).readValue c c.chip.regRfStatus)] at hstate
  rw [← de32_le32 (((r.acquired c).sentFrame c frame).readValue c c.chip.regRxStatus)] at hcount
  exact ⟨_, transceive_normal (regReadLen_of_wf hc) frame d0 d1 d2 d3 d4 d5 d6 _ _ (r.answer frame) rfl rfl fin
    hstate hcount hlen, (hhead.append hmiddle).append htail⟩

end Events

/-! ### The operations that exchange a frame -/

theorem planTransceive_of_go {s : State} {frame f : List Byte} {w : Bool} {q : Sequence}
    (h : planTransceive frame s = .go w f q) : q = transceiveSequence s.cfg frame .exchange := by
  unfold planTransceive at h
  split at h
  · cases h
  · cases h; rfl

theorem framed_of_go {s : State} {w w' : Bool} {req : RfRequest} {f : List Byte} {q : Sequence}
    (h : framed s w' req = .go w f q) : q = transceiveSequence s.cfg (req.frame s.cfg s.flags) .framed := by
  unfold framed at h
  dsimp only at h
  split at h
  · cases h
  · cases h; rfl

/-- An operation that sends a frame to the tag and is not refused: a raw `TRANSCEIVE` of that frame, or a framed
command that built it (R180, R202). -/
theorem planOf_of_rfFrameOf {i : Instr} {s : State} {frame : List Byte} (hi : rfFrameOf s i = some frame)
    (hr : refusalOf s i = none) :
    (i = .transceive frame ∧ ∃ w f, planOf i s = .go w f (transceiveSequence s.cfg frame .exchange)) ∨
    (i ≠ .transceive frame ∧ ∃ w f, planOf i s = .go w f (transceiveSequence s.cfg frame .framed)) := by
  obtain ⟨w, f, q, hp⟩ := planOf_go_of_none hr
  unfold rfFrameOf at hi
  split at hi
  · obtain rfl := Option.some.inj hi
    obtain rfl := planTransceive_of_go hp
    exact .inl ⟨rfl, w, f, hp⟩
  · next hne =>
    obtain ⟨req, hreq, rfl⟩ := Option.map_eq_some_iff.mp hi
    obtain rfl := framed_of_go ((planOf_framed hreq).symm.trans hp)
    exact .inr ⟨hne _, w, f, hp⟩

/-- The final writes of a framed command whose exchange ran to its end (R202). -/
theorem State.results_framed_received (s : State) (c : Config) (r : List Byte) :
    s.results (.framed (received c r)) = (s.writeExchange (received c r)).writeClassified
      (Classify s.cfg (received c r).flags (received c r).data) := if_pos (received_outcome c r)

/-- Settles O51: against the responder the sequence ends with the tag's answer, and this end is written. -/
theorem tagAnswerReachesTheHost : Obligations.TagAnswerReachesTheHost := by
  intro i s chip frame h hc hbus hp hf hw hi hr hlen
  have hidle := Responder.cmdOf_released hc
    (Responder.sentFrame_wf s.cfg frame (Responder.acquired_wf s.cfg hw))
  obtain ⟨rfl, w, f, hplan⟩ | ⟨hne, w, f, hplan⟩ := planOf_of_rfFrameOf hi hr
  · obtain ⟨es, hq, ha⟩ := transceiveSequence_responder hc hp hf hw hlen .exchange
    refine ⟨_, _, exec_of_answered h hplan hq (ha.answered hbus), rfl, received_flags _ _, received_data _ _, hidle,
      rfl, ?_⟩
    rw [if_pos rfl]
    exact received_outcome _ _
  · obtain ⟨es, hq, ha⟩ := transceiveSequence_responder hc hp hf hw hlen .framed
    refine ⟨_, _, exec_of_answered h hplan hq (ha.answered hbus), State.results_bus _ _, ?_, ?_, hidle, rfl, ?_⟩
    · rw [State.finish_resFlags, State.results_framed_received]
      exact received_flags _ _
    · rw [State.finish_resData, State.results_framed_received]
      exact received_data _ _
    · rw [if_neg hne, State.finish_outcome, State.finish_resFlags, State.finish_resData,
        State.results_framed_received]
      rfl

end Sys2Proof.Machine
end

section
/-! SUPPORT. The encodings of spec 30_encoding read back: selectors (R120), bus frames (R102, R103) and request
frames (R111, R112). -/

namespace Sys2Proof

/-! ### Selectors -/

/-- `HOP_NONE` names no operation (R120). -/
theorem Selector.ofCode_noRequest (h : HopCodes) : Selector.ofCode h h.noRequest = none := if_pos rfl

/-- Settles O3: the table of R120 entry by entry; the selectors are told apart because they are distinct. -/
theorem selectorCodes : Obligations.SelectorCodes :=
  ⟨by decide, rfl, fun c hc => ⟨Selector.ofCode_iff (Config.hop_nodup hc), Selector.ofCode_noRequest c.hop⟩⟩

/-! ### Bus frames -/

/-- Bytes that are read as a command are its frame (R102): each branch of the decoder takes every byte, and
the value of a register write is read from its four bytes without loss (R11). -/
theorem frame_of_decodeBusFrame {c : Config} {f : List Byte} {cmd : BusCommand} :
    decodeBusFrame c f = .ok cmd → cmd.frame c = f := by
  fun_cases decodeBusFrame c f <;> rintro ⟨⟩
  case case2 | case4 | case6 => exact congrArg (_ :: _ :: ·) (le32_de32 rfl)
  all_goals rfl

/-- Settles O4, each direction by a lemma about the decoder. -/
theorem busFramesRoundTrip : Obligations.BusFramesRoundTrip := fun _ hc =>
  ⟨decodeBusFrame_frame hc, fun _ _ => frame_of_decodeBusFrame⟩

/-! ### Request frames -/

theorem Config.iso_nodup {c : Config} (h : c.wf = true) : c.iso.implemented.Nodup := by
  simp only [Config.wf, Bool.and_eq_true, decide_eq_true_eq] at h
  tauto

section Identifier
variable {c : Config} {uid : Uid} (h : uid.wf c = true)
include h

/-- A decoder that is told whether there is an identifier takes it from the front of the bytes (R112). -/
theorem splitUid_opt_append (bs : List Byte) : splitUid c uid.isSome (opt uid ++ bs) = .ok (uid, bs) := by
  cases uid with
  | none => rfl
  | some u =>
    have hlen : u.length = c.limits.uidLen := by simpa [Uid.wf] using h
    simp [splitUid, opt, ← hlen, takeBytes_append]

theorem splitUid_opt : splitUid c uid.isSome (opt uid) = .ok (uid, []) := by
  simpa using splitUid_opt_append h []

end Identifier

/-- A request and its flags byte are read back from its frame: the ten codes are distinct, a custom code is none
of them (R115), and the identifier is told apart from what follows it. -/
theorem decodeRfFrame_frame {c : Config} (hc : c.wf = true) (flags : Byte) {r : RfRequest} (hr : r.wf c = true) :
    decodeRfFrame c r.hasUid (r.frame c flags) = .ok (flags, r) := by
  have hn := Config.iso_nodup hc
  simp only [IsoCodes.implemented, List.nodup_cons, List.mem_cons, List.not_mem_nil, or_false, not_or] at hn
  cases r
  case readSingleBlock | writeSingleBlock | writeAfi | writeDsfid | getMultipleBlockSecurityStatus =>
    have hu := splitUid_opt_append (c := c) hr
    simp [RfRequest.hasUid, RfRequest.frame, decodeRfFrame, hn, Ne.symm, hu]
  case resetToReady | lockAfi | lockDsfid | getSystemInformation =>
    have hu := splitUid_opt (c := c) hr
    simp [RfRequest.hasUid, RfRequest.frame, decodeRfFrame, hn, Ne.symm, hu]
  case select u =>
    have hu : splitUid c true u = .ok (some u, []) := splitUid_opt (uid := some u) hr
    simp [RfRequest.frame, decodeRfFrame, hn, Ne.symm, hu]
  case custom code mfg u payload =>
    obtain ⟨hu, hcode⟩ : u.wf c = true ∧ code ∉ c.iso.implemented := by simpa [RfRequest.wf] using hr
    simp only [IsoCodes.implemented, List.mem_cons, List.not_mem_nil, or_false, not_or] at hcode
    simp [RfRequest.hasUid, RfRequest.frame, decodeRfFrame, hcode, splitUid_opt_append hu]

/-- Settles O5, by the decoder's equation on the frame of each request. -/
theorem requestFramesRoundTrip : Obligations.RequestFramesRoundTrip := fun _ flags _ hc hr =>
  decodeRfFrame_frame hc flags hr

/-- Settles O6: the layouts are those of the encoder, and the lengths count an identifier as `n` bytes. -/
theorem requestFrameLayouts : Obligations.RequestFrameLayouts := by
  intro c flags uid u data payload blk val first count code mfg hu huid n
  have hopt : (opt uid).length = n := by
    obtain rfl | rfl := huid
    · rfl
    · exact hu
  refine ⟨?_, rfl, ?_, rfl, ?_, rfl, ?_, ?_, rfl, ?_, rfl, ?_⟩ <;> simp +arith [RfRequest.frame, hopt, hu]

/-- Settles O7, by running the decoders on each word. -/
theorem specWordsDecode : Obligations.SpecWordsDecode := by
  unfold Obligations.SpecWordsDecode
  decide

end Sys2Proof
end

section
/-! SUPPORT. Requests at the port in a step, and the refusal of a selector that names no operation (spec
30_encoding R122, 60_exceptions R256, R262). -/

namespace Sys2Proof.Machine

theorem step_call {s : State} {bytes : List Byte} {rest : List HostInput} (h : s.inputs = .call bytes :: rest) :
    step s = request true bytes { s with inputs := rest } := by simp [step, takeInput, h]

theorem step_present {s : State} {bytes : List Byte} {rest : List HostInput}
    (h : s.inputs = .present bytes :: rest) : step s = request false bytes { s with inputs := rest } := by
  simp [step, takeInput, h]

/-- A request whose selector names no operation is refused, waited for or not (R122, R259). -/
theorem request_unlisted {wait : Bool} {b : Byte} {s : State} (ops : List Byte) (hb : s.busy = false)
    (hsel : Selector.ofCode s.cfg.hop b = none) : request wait (b :: ops) s =
      .next ((s.acceptSelector b).refuse (if s.halt then .halted else .badSelector)) := by
  simp [request, hb, decodeRequest, hsel, rejectSelector_ready b hb]

theorem step_unlisted {s : State} {b : Byte} {ops : List Byte} {rest : List HostInput} (hb : s.busy = false)
    (hsel : Selector.ofCode s.cfg.hop b = none)
    (h : s.inputs = .call (b :: ops) :: rest ∨ s.inputs = .present (b :: ops) :: rest) :
    step s = .next ((State.acceptSelector { s with inputs := rest } b).refuse
      (if s.halt then .halted else .badSelector)) := by
  have hq : ∀ wait, request wait (b :: ops) { s with inputs := rest } = _ := fun _ => request_unlisted ops hb hsel
  obtain h | h := h
  · exact (step_call h).trans (hq true)
  · exact (step_present h).trans (hq false)

/-- Settles O11: the port refuses the selector, and the plan of each stub is its refusal. -/
theorem unlistedSelectorsAndStubsAreRefused : Obligations.UnlistedSelectorsAndStubsAreRefused := by
  intro s h
  refine ⟨fun b ops rest hsel hin => ?_, Selector.ofCode_noRequest _, exec_of_refused h rfl, exec_of_refused h rfl,
    exec_of_refused h rfl⟩
  rw [step_unlisted h.1 hsel hin, h.2]
  rfl

end Sys2Proof.Machine
end

section
/-! SUPPORT. The operations of the Command Codec (spec 40_command_codec R140 to R153): one command, with or without
a reply, and what the operation then has written. -/

namespace Sys2Proof.Machine

/-! ### One command -/

/-- A command without a reply has the events of its request alone (R72). -/
theorem Sequence.resume_commandEvents (c : Config) (cmd : BusCommand) (d : List Byte) (k : List Byte → Sequence) :
    (chipCommand c cmd 0 k).resume (commandEvents c cmd d) = some (k []) := by
  rw [← List.append_nil (commandEvents c cmd d), resume_command, resume_nil]

/-- A command with a reply has those and its probe, whatever the probe returns (R72). -/
theorem Sequence.resume_probe (c : Config) (cmd : BusCommand) {n : Nat} (hn : 0 < n) (d r : List Byte)
    (k : List Byte → Sequence) :
    (chipCommand c cmd n k).resume (commandEvents c cmd d ++ [.xfer (rep c.bytes.probeByte n) r]) = some (k r) := by
  simp [chipCommand, commandEvents, resume, resume_nil, hn]

/-- The events of a command whose reply has the length an operand names: no probe when it is 0 (R146, R148). -/
theorem replyEvents_of_length (c : Config) (cmd : BusCommand) (d : List Byte) {w : Nat} {n : BitVec w}
    {r : List Byte} (hr : r.length = n.toNat) : replyEvents c cmd d r =
      commandEvents c cmd d ++ if n = 0 then [] else [.xfer (rep c.bytes.probeByte n.toNat) r] := by
  have hnil : r = [] ↔ n = 0 := by
    rw [← List.length_eq_zero_iff, hr, BitVec.toNat_eq, BitVec.ofNat_eq_ofNat, BitVec.toNat_zero]
  simp only [replyEvents, hnil, hr]

section Operations
variable {s : State} (h : s.Ready) {i : Instr} {cmd : BusCommand}
include h

/-- An operation that is one command without a reply (R72, R153). -/
theorem runsTo_command (hplan : planOf i s = .plain (chipCommand s.cfg cmd 0 fun _ => .done .ok)) (d : List Byte) :
    RunsTo i s false (commandEvents s.cfg cmd d) (s.afterOk i (commandEvents s.cfg cmd d)) :=
  runsTo_of_resume h hplan (Sequence.resume_commandEvents _ _ _ _) fun _ => rfl

/-- An operation that is one command and hands its reply to the host (R146, R148). -/
theorem runsTo_data {n : Nat} (hplan : planOf i s = .plain (chipCommand s.cfg cmd n fun r => .done (.data r)))
    (d : List Byte) {r : List Byte} (hr : r.length = n) : RunsTo i s false (replyEvents s.cfg cmd d r)
      (fun bus => { s.afterOk i (replyEvents s.cfg cmd d r) bus with resData := r }) := by
  have hq := Sequence.resume_chipCommand s.cfg cmd d r (fun r => .done (.data r)) []
  rw [List.append_nil, Sequence.resume_nil, hr] at hq
  exact runsTo_of_resume h hplan hq fun _ => rfl

/-- An operation that is one command without a reply, against the responder: the command takes effect (R91). -/
theorem exec_command_responder (hplan : planOf i s = .plain (chipCommand s.cfg cmd 0 fun _ => .done .ok))
    (hc : s.cfg.wf = true) {chip : Responder} (hbus : s.bus = .responder chip none) (hp : chip.pending = []) :
    ∃ es, exec i s = .next (s.afterOk i es (.responder (chip.execute s.cfg cmd) none)) :=
  ⟨_, (runsTo_command h hplan _).1 _ ((Responder.answers_command hc hp cmd).answered hbus)⟩

end Operations

/-! ### Registers -/

/-- An address that is not known is refused by the register operations (R142 to R145). -/
theorem exec_of_unknown {s : State} (h : s.Ready) {i : Instr} {a : Byte}
    (hi : refusalOf s i = addressRefusal s a) (ha : s.cfg.chip.known a = false) :
    exec i s = .next (s.afterRefusal i .unknownRegister) :=
  exec_of_refused h (hi.trans (if_neg (by simp [ha])))

/-- Settles O15: each of the three operations is one command, which stores its effect on what the register held. -/
theorem registerWritesSendOneFrame : Obligations.RegisterWritesSendOneFrame := by
  intro s a v i op effect h hi
  obtain ⟨cmd, hrefusal, hplan, hframe, hexecute⟩ : ∃ cmd : BusCommand, refusalOf s i = addressRefusal s a ∧
      (s.cfg.chip.known a = true → planOf i s = .plain (chipCommand s.cfg cmd 0 fun _ => .done .ok)) ∧
      cmd.frame s.cfg = [op, a] ++ le32 v ∧
      (s.cfg.chip.known a = true → ∀ chip : Responder,
        chip.execute s.cfg cmd = chip.writeReg a (effect (chip.readReg a))) := by
    obtain ⟨rfl, rfl, rfl⟩ | ⟨rfl, rfl, rfl⟩ | ⟨rfl, rfl, rfl⟩ := hi
    · exact ⟨.writeRegister a v, rfl, fun ha => if_pos ha, rfl, fun ha _ => if_pos ha⟩
    · exact ⟨.writeRegisterOrMask a v, rfl, fun ha => if_pos ha, rfl, fun ha _ => if_pos ha⟩
    · exact ⟨.writeRegisterAndMask a v, rfl, fun ha => if_pos ha, rfl, fun ha _ => if_pos ha⟩
  refine ⟨exec_of_unknown h hrefusal, fun ha => ⟨fun d => ?_, fun chip hc hbus hp hw => ?_⟩⟩
  · rw [← hframe]
    exact runsTo_command h (hplan ha) d
  · obtain ⟨es, ht⟩ := exec_command_responder h (hplan ha) hc hbus hp
    refine ⟨_, _, ht, rfl, ?_⟩
    rw [hexecute ha, Responder.readReg_writeReg hw]

/-- Settles O16: the reply is as long as a register value, so there is a probe, and its bytes are decoded. -/
theorem readRegisterDecodesItsReply : Obligations.ReadRegisterDecodesItsReply := by
  intro s a h hc
  refine ⟨exec_of_unknown h rfl, fun ha d r => ?_⟩
  have hplan : planOf (.readRegister a) s = .plain (readRegister s.cfg a fun v => .done (.value v)) := if_pos ha
  rw [readRegister, regReadLen_of_wf hc] at hplan
  exact runsTo_of_resume h hplan (Sequence.resume_probe _ _ (by decide) d r _) fun _ => rfl

/-! ### The other commands -/

/-- Settles O17: one command with a reply of the length named. -/
theorem readEepromFetchesItsLength : Obligations.ReadEepromFetchesItsLength := by
  intro s a l d r h hr
  have hrun := runsTo_data (i := .readEeprom a l) (cmd := .readEeprom a l) h rfl d hr
  rwa [replyEvents_of_length _ _ _ hr] at hrun

/-- Settles O18: the two checks in the order of R147, then one command. -/
theorem sendDataChecksAndForwards : Obligations.SendDataChecksAndForwards := by
  intro s vb payload h
  refine ⟨fun hvb => exec_of_refused h (if_pos hvb), fun hvb hlen => ?_, fun hvb hne hlen d => ?_⟩
  · exact exec_of_refused h ((if_neg hvb.not_gt).trans (if_pos hlen))
  · have hbits : validBitsOk s.cfg vb = true := decide_eq_true hvb
    have htx : txLenOk s.cfg payload = true := by simp [txLenOk, hne, hlen]
    have hplan : planOf (.sendData vb payload) s =
        .plain (chipCommand s.cfg (.sendData vb payload) 0 fun _ => .done .ok) := by
      simp [planOf, planSendData, hbits, htx]
    exact runsTo_command h hplan d

/-- Settles O19: the length is checked, and is that of the reply, not of the request. -/
theorem readDataFetchesItsLength : Obligations.ReadDataFetchesItsLength := by
  intro s len h
  refine ⟨fun hlen => exec_of_refused h (if_pos hlen), fun hlen d r hr => ?_⟩
  have hrx : rxLenOk s.cfg len = true := decide_eq_true hlen
  have hplan : planOf (.readData len) s = .plain (chipCommand s.cfg (.readData s.cfg.bytes.readDataParam) len.toNat
      fun r => .done (.data r)) := by simp [planOf, planReadData, hrx]
  have hrun := runsTo_data h hplan d hr
  rwa [replyEvents_of_length _ _ _ hr] at hrun

/-- Settles O20: each of the three is one command, never refused. -/
theorem rfCommandsSendTheirParameters : Obligations.RfCommandsSendTheirParameters :=
  fun _ tx rx mode d h => ⟨runsTo_command (cmd := .loadRfConfig tx rx) h rfl d,
    runsTo_command (cmd := .rfOn mode) h rfl d, runsTo_command (cmd := .rfOff _) h rfl d⟩

end Sys2Proof.Machine
end

section
/-! SUPPORT. The operations of Device Control (spec 41_device_control R170 to R183): the events of their sequences, what
the mask writes leave in the command field, and the commands of an exchange with the tag. -/

namespace Sys2Proof.Machine

/-! ### Events one after the other -/

/-- A sequence goes on from where the events before have led it. -/
theorem Sequence.resume_trans {q q' q'' : Sequence} {es es' : List Event} (h : q.resume es = some q')
    (h' : q'.resume es' = some q'') : q.resume (es ++ es') = some q'' := (resume_append h).trans h'

theorem Sequence.resume_delay (ms : Nat) (q : Sequence) : (Sequence.delay ms q).resume [.delay ms] = some q := by
  simp [resume, resume_nil]

/-- An operation with the events `es` that writes no result register (R172 to R175). -/
theorem runsTo_ok {i : Instr} {s : State} {q : Sequence} {es : List Event} (h : s.Ready)
    (hplan : planOf i s = .plain q) (hq : q.resume es = some (.done .ok)) : RunsTo i s false es (s.afterOk i es) :=
  runsTo_of_resume h hplan hq fun _ => rfl

/-! ### Identity queries -/

/-- A read of an EEPROM region, with a reply of the region's length (R146, R170). -/
theorem Sequence.resume_readEeprom (c : Config) (a : Byte) {l : Byte} (d : List Byte) {r : List Byte}
    (hr : r.length = l.toNat) (k : List Byte → Sequence) :
    (readEeprom c a l k).resume (replyEvents c (.readEeprom a l) d r) = some (k r) := by
  rw [readEeprom, ← hr, ← List.append_nil (replyEvents _ _ d r), resume_chipCommand, resume_nil]

/-- Settles O21: the self test is four reads, one after the other; each single query is one command. -/
theorem identityQueriesReadTheirRegions : Obligations.IdentityQueriesReadTheirRegions := by
  intro s d0 d1 d2 d3 r0 r1 r2 r3 h h0 h1 h2 h3
  refine ⟨runsTo_of_resume (fin := .data (r0 ++ r1 ++ r2 ++ r3)) h rfl ?_ fun _ => rfl, runsTo_data h rfl d0 h0,
    runsTo_data h rfl d1 h1, runsTo_data h rfl d2 h2, runsTo_data h rfl d3 h3⟩
  exact Sequence.resume_trans (Sequence.resume_trans (Sequence.resume_trans
    (Sequence.resume_readEeprom _ _ d0 h0 _) (Sequence.resume_readEeprom _ _ d1 h1 _))
    (Sequence.resume_readEeprom _ _ d2 h2 _)) (Sequence.resume_readEeprom _ _ d3 h3 _)

/-! ### The command field -/

/-- The command field is set to TRANSCEIVE by two commands (R173). -/
theorem Sequence.resume_acquire (c : Config) (d0 d1 : List Byte) (q : Sequence) :
    (commandTransceive c q).resume (acquireEvents c d0 d1) = some q :=
  resume_trans (resume_idle c d0 _) (resume_commandEvents c _ d1 _)

theorem runsTo_setCommandIdle {s : State} (h : s.Ready) (d : List Byte) : RunsTo .setCommandIdle s false
    (idleEvents s.cfg d) (s.afterOk .setCommandIdle (idleEvents s.cfg d)) := runsTo_ok h rfl (resume_idle _ d _)

theorem runsTo_setCommandTransceive {s : State} (h : s.Ready) (d0 d1 : List Byte) : RunsTo .setCommandTransceive s false
    (acquireEvents s.cfg d0 d1) (s.afterOk .setCommandTransceive (acquireEvents s.cfg d0 d1)) :=
  runsTo_ok h rfl (Sequence.resume_acquire _ d0 d1 _)

/-- A value that fits a field, set there, leaves the bits outside the field. -/
theorem set_outside {lo n : Nat} {x : Word} (hx : x.toNat < 2 ^ n) (v : Word) :
    (v ||| x <<< lo) &&& ~~~ fieldMask lo n = v &&& ~~~ fieldMask lo n := by
  refine BitVec.eq_of_getLsbD_eq fun i hi => ?_
  have hxi : n ≤ i - lo → x.getLsbD (i - lo) = false := fun hni =>
    Nat.testBit_lt_two_pow (hx.trans_le (Nat.pow_le_pow_right (by decide) hni))
  simp only [BitVec.getLsbD_and, BitVec.getLsbD_or, BitVec.getLsbD_not, getLsbD_fieldMask, BitVec.getLsbD_shiftLeft]
  grind

section Registers
variable {c : Config} (hc : c.wf = true) {r : Responder} (hw : r.reg.wf = true)
include hc hw

/-- Releasing the command field leaves the register's other bits (R172). -/
theorem Responder.released_outside : (r.released c).readReg c.chip.regSystemConfig &&&
      ~~~ fieldMask c.chip.cmdFieldLo c.chip.cmdFieldBits =
    r.readReg c.chip.regSystemConfig &&& ~~~ fieldMask c.chip.cmdFieldLo c.chip.cmdFieldBits := by
  obtain ⟨-, -, hclear, -⟩ := ChipMap.cmdField_of_wf (Config.chip_wf hc)
  rw [released, readReg_writeReg hw, hclear, BitVec.and_assoc, BitVec.and_self]

/-- Acquiring it leaves them too (R173). -/
theorem Responder.acquired_outside : (r.acquired c).readReg c.chip.regSystemConfig &&&
      ~~~ fieldMask c.chip.cmdFieldLo c.chip.cmdFieldBits =
    r.readReg c.chip.regSystemConfig &&& ~~~ fieldMask c.chip.cmdFieldLo c.chip.cmdFieldBits := by
  obtain ⟨-, hfits, -, hset⟩ := ChipMap.cmdField_of_wf (Config.chip_wf hc)
  rw [acquired, readReg_writeReg (released_wf c hw), hset, set_outside hfits, released_outside hc hw]

end Registers

/-- Settles O22: the mask writes are the commands that release and acquire the field, and the responder is then as
these leave it. -/
theorem commandFieldIsSetByMasks : Obligations.CommandFieldIsSetByMasks := by
  refine ⟨fun s d0 d1 h => ⟨runsTo_setCommandIdle h d0, runsTo_setCommandTransceive h d0 d1⟩, ?_⟩
  intro s chip h hc hbus hp hw sys mask p hmem
  simp only [List.mem_cons, List.not_mem_nil, or_false] at hmem
  obtain rfl | rfl := hmem
  · obtain ⟨d, ha⟩ := Responder.answers_idle hc hp
    exact ⟨_, _, (runsTo_setCommandIdle h d).1 _ (ha.answered hbus), rfl, Responder.cmdOf_released hc hw,
      Responder.released_outside hc hw⟩
  · obtain ⟨d0, d1, ha⟩ := Responder.answers_acquire hc hp
    exact ⟨_, _, (runsTo_setCommandTransceive h d0 d1).1 _ (ha.answered hbus), rfl, Responder.cmdOf_acquired hc hw,
      Responder.acquired_outside hc hw⟩

/-! ### Reset and configuration -/

/-- The two phases of the reset, each with its delay (R174). -/
theorem Sequence.resume_chipReset (c : Config) (d0 d1 : List Byte) (q : Sequence) :
    (chipReset c q).resume (resetEvents c d0 d1) = some q :=
  resume_trans (resume_trans (resume_trans (resume_commandEvents c _ d0 _) (resume_delay _ _))
    (resume_commandEvents c _ d1 _)) (resume_delay _ _)

/-- Settles O24: the configuration is the reset, then three commands without a reply. -/
theorem resetAndConfigureSequences : Obligations.ResetAndConfigureSequences := by
  intro s d0 d1 d2 d3 d4 h
  refine ⟨runsTo_ok h rfl (Sequence.resume_chipReset _ d0 d1 _),
    runsTo_ok h rfl (Sequence.resume_trans (Sequence.resume_chipReset _ d0 d1 _) ?_)⟩
  exact Sequence.resume_trans (Sequence.resume_commandEvents _ _ d2 _)
    (Sequence.resume_trans (Sequence.resume_commandEvents _ _ d3 _) (resume_idle _ d4 _))

/-! ### The paths of an exchange -/

theorem planOf_transceive {s : State} {frame : List Byte} (hne : frame ≠ [])
    (hlen : frame.length ≤ s.cfg.limits.txMax) :
    planOf (.transceive frame) s = .plain (transceiveSequence s.cfg frame .exchange) := by
  have htx : txLenOk s.cfg frame = true := by simp [txLenOk, hne, hlen]
  simp [planOf, planTransceive, htx]

/-- Settles O25: each path is one of the ways through the transceive sequence, and ends with that way's writes. -/
theorem transceiveSequencePaths : Obligations.TransceiveSequencePaths := by
  intro s frame h hc
  have hlen4 := regReadLen_of_wf hc
  refine ⟨fun hbad => exec_of_refused h (if_pos hbad), fun hne hlen d0 d1 d2 d3 d4 d5 d6 rf rx r hrf hrx => ?_⟩
  have hplan := planOf_transceive hne hlen
  refine ⟨fun ht hl hr => ?_, fun ht => ?_, fun ht hl => ?_⟩
  · refine runsTo_of_resume h hplan
      (transceive_normal hlen4 frame d0 d1 d2 d3 d4 d5 d6 rf rx r hrf hrx _ ht hl hr) fun _ => ?_
    cases r <;> rfl
  · exact runsTo_of_resume h hplan (transceive_precondition hlen4 frame d0 d1 d2 d6 rf hrf _ ht) fun _ => rfl
  · exact runsTo_of_resume h hplan (transceive_length hlen4 frame d0 d1 d2 d3 d4 d6 rf rx hrf hrx _ ht hl)
      fun _ => rfl

/-! ### The commands of an exchange -/

theorem commandsOf_command {c : Config} (hc : c.wf = true) (cmd : BusCommand) (d : List Byte) (es : List Event) :
    commandsOf c (commandEvents c cmd d ++ es) = cmd :: commandsOf c es := by
  simp [commandEvents, commandsOf, decodeBusFrame_frame hc]

/-- A probe is no command (R105). -/
theorem commandsOf_probe {c : Config} (hc : c.wf = true) (n : Nat) (r : List Byte) (es : List Event) :
    commandsOf c (.xfer (rep c.bytes.probeByte n) r :: es) = commandsOf c es := by
  rw [commandsOf]
  split
  · next cmd hd => exact absurd hd (decodeBusFrame_probe hc n cmd)
  · rfl

/-- Whatever the replies, a run to an end has given commands that with this end satisfy `P`. -/
def Sequence.Gives (c : Config) (P : List BusCommand → Finish → Prop) (q : Sequence) : Prop :=
  ∀ es f, q.resume es = some (.done f) → P (commandsOf c es) f

section Gives
variable {c : Config} {P : List BusCommand → Finish → Prop}

theorem Sequence.gives_done {f : Finish} (h : P [] f) : (Sequence.done f).Gives c P := fun es g hq => by
  obtain ⟨rfl, hf⟩ := resume_done_iff.mp hq
  rwa [Sequence.done.inj hf]

theorem Sequence.gives_delay {ms : Nat} {k : Sequence} (h : k.Gives c P) : (Sequence.delay ms k).Gives c P :=
  fun es g hq => by
    cases es with
    | nil => cases hq
    | cons e es =>
      obtain ⟨ms', k', hk, rfl, hrest⟩ | ⟨sent, k', reply, hk, -⟩ := resume_cons hq
      · obtain ⟨rfl, rfl⟩ := Sequence.delay.inj hk
        exact h es g hrest
      · cases hk

theorem Sequence.gives_command (hc : c.wf = true) {cmd : BusCommand} {n : Nat} {k : List Byte → Sequence}
    (h : ∀ r, (k r).Gives c fun cs f => P (cmd :: cs) f) : (chipCommand c cmd n k).Gives c P := fun es g hq => by
  obtain ⟨d, r, rest, -, rfl, hk⟩ | ⟨d, rest, -, rfl, hk⟩ := resume_chipCommand_done hq
  · rw [commandsOf_command hc, commandsOf_probe hc]
    exact h r rest g hk
  · rw [commandsOf_command hc]
    exact h [] rest g hk

end Gives

/-- The commands of an exchange that acquires the command field, reads the RF status, gives `cs`, and releases the
field. -/
def withCommandField (c : Config) (cs : List BusCommand) : List BusCommand :=
  .writeRegisterAndMask c.chip.regSystemConfig c.chip.maskCmdClear ::
  .writeRegisterOrMask c.chip.regSystemConfig c.chip.maskCmdTransceive ::
  .readRegister c.chip.regRfStatus ::
  (cs ++ [.writeRegisterAndMask c.chip.regSystemConfig c.chip.maskCmdClear])

/-- The send of the frame and the read of the received count. -/
def sendCommands (c : Config) (frame : List Byte) : List BusCommand :=
  [.sendData c.bytes.sendAllBits frame, .readRegister c.chip.regRxStatus]

/-- The commands and the outcome of an exchange, on the paths of R180: precondition failed, count too large, normal. -/
inductive ExchangeGives (c : Config) (frame : List Byte) : List BusCommand → OpOutcome → Prop where
  | precondition : ExchangeGives c frame (withCommandField c []) .statePreconditionFailed
  | length : ExchangeGives c frame (withCommandField c (sendCommands c frame)) .rxLengthFault
  | normal {o : OpOutcome} (hp : o ≠ .statePreconditionFailed) (hl : o ≠ .rxLengthFault) : ExchangeGives c frame
      (withCommandField c (sendCommands c frame ++ [.readData c.bytes.readDataParam])) o

/-- Whatever comes back, the sequence gives the commands of one path and returns that path's outcome (R180). -/
theorem transceiveSequence_gives {c : Config} (hc : c.wf = true) (frame : List Byte) (fin : Exchange → Finish) :
    (transceiveSequence c frame fin).Gives c fun cs f =>
      ∃ e, f = fin e ∧ ExchangeGives c frame cs e.outcome := by
  unfold transceiveSequence commandTransceive commandIdle readRegister
  refine Sequence.gives_command hc fun _ => Sequence.gives_command hc fun _ => Sequence.gives_command hc fun rf => ?_
  dsimp only
  split
  · exact Sequence.gives_command hc fun _ => Sequence.gives_done ⟨_, rfl, .precondition⟩
  · refine Sequence.gives_command hc fun _ => Sequence.gives_delay (Sequence.gives_command hc fun rx => ?_)
    split
    · exact Sequence.gives_command hc fun _ => Sequence.gives_done ⟨_, rfl, .length⟩
    · refine Sequence.gives_command hc fun r => Sequence.gives_command hc fun _ => Sequence.gives_done ⟨_, rfl, ?_⟩
      rw [received_outcome]
      exact .normal (by decide) (by decide)

/-- Classification never tells of an exchange cut short (R241). -/
theorem classify_outcome_ne (c : Config) (flags : Byte) (data : List Byte) :
    (Classify c flags data).outcome ≠ .statePreconditionFailed ∧ (Classify c flags data).outcome ≠ .rxLengthFault := by
  unfold Classify
  split
  · simp
  · split
    · cases data <;> simp
    · simp

/-- The final writes of an exchange, raw or framed, keep the path its outcome tells of: classification looks at the
bytes of the normal path alone (R202). -/
theorem ExchangeGives.results {c : Config} {frame : List Byte} {cs : List BusCommand} {e : Exchange}
    (h : ExchangeGives c frame cs e.outcome) {fin : Exchange → Finish} (hfin : fin = .exchange ∨ fin = .framed)
    (s : State) : ExchangeGives c frame cs (s.results (fin e)).outcome := by
  obtain rfl | rfl := hfin
  · exact h
  · by_cases he : e.outcome = .ok
    · obtain ⟨hp, hl⟩ := classify_outcome_ne s.cfg e.flags e.data
      rw [State.results, if_pos he, State.writeClassified_outcome]
      rw [he] at h
      cases h
      exact .normal hp hl
    · rw [State.results, if_neg he]
      exact h

/-- A block that ran an exchange to its end gave the commands of the path its `OUTCOME` tells of, and is ready. -/
theorem exec_exchangeGives {i : Instr} {s t : State} {frame : List Byte} (h : s.Ready) (hc : s.cfg.wf = true)
    (hi : rfFrameOf s i = some frame) (hr : refusalOf s i = none) (ht : exec i s = .next t) (hh : t.halt = false) :
    ExchangeGives s.cfg frame (commandsOf s.cfg (newEvents s t)) t.outcome ∧ t.busy = false := by
  obtain ⟨fin, hfin, w, f, hplan⟩ : ∃ fin, (fin = .exchange ∨ fin = .framed) ∧
      ∃ w f, planOf i s = .go w f (transceiveSequence s.cfg frame fin) := by
    obtain ⟨-, hraw⟩ | ⟨-, hframed⟩ := planOf_of_rfFrameOf hi hr
    · exact ⟨_, .inl rfl, hraw⟩
    · exact ⟨_, .inr rfl, hframed⟩
  obtain ⟨es, b, g, hq, rfl⟩ := exec_done_of_not_halted h hplan ht hh
  obtain ⟨e, rfl, he⟩ := transceiveSequence_gives hc frame fin es g hq
  rw [newEvents_finish, State.finish_outcome]
  exact ⟨he.results hfin _, State.busy_ready (State.finish_seq _ _)⟩

theorem getLast?_withCommandField (c : Config) (cs : List BusCommand) : (withCommandField c cs).getLast? =
    some (.writeRegisterAndMask c.chip.regSystemConfig c.chip.maskCmdClear) := by
  simp [withCommandField, List.getLast?_cons]

/-- Settles O26: the claims are read off the list of commands of each path. -/
theorem transceiveAlwaysReleasesToIdle : Obligations.TransceiveAlwaysReleasesToIdle := by
  intro i s t frame h hc hi hr ht hh cmds
  obtain ⟨hcmds, hbusy⟩ := exec_exchangeGives h hc hi hr ht hh
  change ExchangeGives s.cfg frame cmds t.outcome at hcmds
  generalize cmds = cs, t.outcome = o at hcmds ⊢
  cases hcmds with
  | precondition =>
    exact ⟨getLast?_withCommandField _ _, fun _ => rfl, fun hne => absurd rfl hne, fun hne => absurd rfl hne, hbusy⟩
  | length =>
    exact ⟨getLast?_withCommandField _ _, nofun, fun _ => ⟨rfl, fun p hp => (Option.some.inj hp).symm⟩,
      fun _ hne => absurd rfl hne, hbusy⟩
  | normal hp hl =>
    exact ⟨getLast?_withCommandField _ _, fun he => absurd he hp,
      fun _ => ⟨rfl, fun p hp => (Option.some.inj hp).symm⟩, fun _ _ => rfl, hbusy⟩

end Sys2Proof.Machine
end

section
/-! SUPPORT. The operations of the ISO-15693 Frame Builder (spec 42_iso15693_frames R200 to R213): the request flags
register, and the framed commands, whose sequence is the transceive sequence on the frame they build. -/

namespace Sys2Proof.Machine

/-! ### The request flags register -/

/-- An operation without events makes its final writes at once (R200, R201). -/
theorem exec_of_done {i : Instr} {s : State} {fin : Finish} (h : s.Ready) (hplan : planOf i s = .plain (.done fin)) :
    exec i s = .next ((s.started i false []).finish fin) := by
  rw [exec_eq, perform_go h hplan, Sequence.run]

/-- Settles O27: both operations have no events, so that only acceptance and the final writes are left. -/
theorem flagsRegisterOperations : Obligations.FlagsRegisterOperations :=
  fun _ f h => ⟨exec_of_done (fin := .setFlags f) h rfl, exec_of_done (fin := .flagsOut) h rfl⟩

/-! ### The plan of a framed command -/

/-- A framed command whose frame fits runs the transceive sequence on it (R202). -/
theorem planOf_framed_of_le {i : Instr} {s : State} {req : RfRequest} (hi : rfRequestOf i = some req)
    (hlen : (req.frame s.cfg s.flags).length ≤ s.cfg.limits.txMax) :
    planOf i s = .go (malformedOf s.cfg i) (req.frame s.cfg s.flags)
      (transceiveSequence s.cfg (req.frame s.cfg s.flags) .framed) := by
  rw [planOf_framed hi, framed, if_neg (Nat.not_lt.mpr hlen)]

/-- A framed command whose frame is too long is refused (R221). -/
theorem refusalOf_framed_of_lt {i : Instr} {s : State} {req : RfRequest} (hi : rfRequestOf i = some req)
    (hlen : s.cfg.limits.txMax < (req.frame s.cfg s.flags).length) : refusalOf s i = some .badLength := by
  rw [← planOf_refuse_iff, planOf_framed hi, framed_refuse_iff]
  exact if_pos hlen

/-- An empty identifier is none (R205, log 20). -/
theorem mandatoryUid_of_opt_nil {uid : Uid} (h : opt uid = []) : mandatoryUid uid = none := by
  cases uid with
  | none => rfl
  | some bs => obtain rfl : bs = [] := h; rfl

/-! ### The paths of a framed command -/

/-- The final writes after an exchange that ran to its end: its result, classified (R202, R240). -/
theorem State.finish_framed_received (s : State) (r : List Byte) :
    let k := Classify s.cfg (r.headD s.cfg.bytes.noAnswerFlags) r.tail
    s.finish (.framed (received s.cfg r)) = { s with
      resFlags := r.headD s.cfg.bytes.noAnswerFlags, resData := r.tail,
      outcome := k.outcome, resCode := k.code, resCodeValid := k.valid, seq := SeqReg.ready, txf := [] } := by
  rw [State.finish, State.results_framed_received, State.writeExchange, received_flags, received_data]
  rfl

/-- Settles O28: each path is one of the ways through the transceive sequence on the frame built. -/
theorem framedCommandsRunAndClassify : Obligations.FramedCommandsRunAndClassify := by
  refine ⟨fun i req s hi h hc => ⟨fun hlong => exec_of_refused h (refusalOf_framed_of_lt hi hlong),
    fun hlen d0 d1 d2 d3 d4 d5 d6 rf rx r hrf hrx => ?_⟩, fun s uid h hu => exec_of_refused h ?_⟩
  · have hlen4 := regReadLen_of_wf hc
    have hplan := planOf_framed_of_le hi hlen
    refine ⟨fun ht hl hr => ?_, fun ht => ?_, fun ht hl => ?_⟩
    · exact runsTo_of_resume h hplan
        (transceive_normal hlen4 _ d0 d1 d2 d3 d4 d5 d6 rf rx r hrf hrx _ ht hl hr)
        fun _ => State.finish_framed_received _ r
    · exact runsTo_of_resume h hplan (transceive_precondition hlen4 _ d0 d1 d2 d6 rf hrf _ ht) fun _ => rfl
    · exact runsTo_of_resume h hplan (transceive_length hlen4 _ d0 d1 d2 d3 d4 d6 rf rx hrf hrx _ ht hl)
        fun _ => rfl
  · rw [refusalOf, mandatoryUid_of_opt_nil hu]

end Sys2Proof.Machine
end

section
/-! SUPPORT. Status and error classification (spec 43_status_classification R240 to R243): the three cases of `Classify`,
what of its arguments it looks at, its operation, and the text of an error code. -/

namespace Sys2Proof.Machine

/-! ### The three cases -/

/-- The sentinel flags byte: no answer (R241). -/
theorem classify_noAnswerFlags (c : Config) (data : List Byte) :
    Classify c c.bytes.noAnswerFlags data = ⟨.noAnswer, 0, false⟩ := if_pos rfl

/-- Any other flags byte that is not zero: a tag error, whose code is the first data byte if there is one (R241, D26). -/
theorem classify_of_error {c : Config} {flags : Byte} (data : List Byte) (hs : flags ≠ c.bytes.noAnswerFlags)
    (h0 : flags ≠ 0) : Classify c flags data = ⟨.tagError, data.head?.getD 0, data.head?.isSome⟩ := by
  cases data <;> exact (if_neg hs).trans (if_pos h0)

/-- Flags byte zero, where that is not the sentinel: success (R241). -/
theorem classify_zero {c : Config} (data : List Byte) (hs : c.bytes.noAnswerFlags ≠ 0) :
    Classify c 0 data = ⟨.ok, 0, false⟩ :=
  (if_neg hs.symm).trans (if_neg (not_not.mpr rfl))

/-! ### What it looks at -/

/-- The outcome comes from the flags byte alone, and the data counts by its first byte alone (R242). -/
theorem classify_congr (c : Config) (flags : Byte) (d d' : List Byte) :
    (Classify c flags d).outcome = (Classify c flags d').outcome ∧
      (d.head? = d'.head? → Classify c flags d = Classify c flags d') := by
  by_cases hs : flags = c.bytes.noAnswerFlags
  · rw [hs, classify_noAnswerFlags, classify_noAnswerFlags]
    exact ⟨rfl, fun _ => rfl⟩
  · by_cases h0 : flags = 0
    · rw [h0] at hs ⊢
      rw [classify_zero d (Ne.symm hs), classify_zero d' (Ne.symm hs)]
      exact ⟨rfl, fun _ => rfl⟩
    · rw [classify_of_error d hs h0, classify_of_error d' hs h0]
      exact ⟨rfl, fun h => by rw [h]⟩

/-! ### The operation -/

/-- Settles O30: the three cases, and an operation without events that writes what they give. -/
theorem classificationCases : Obligations.ClassificationCases :=
  ⟨classify_noAnswerFlags, fun c f b d hs h0 => ⟨classify_of_error _ hs h0, classify_of_error _ hs h0⟩,
    fun _ d hs => classify_zero d hs, classify_congr, rfl, classify_of_error _ (by decide) (by decide), rfl,
    fun s f d h => exec_of_done (fin := .classified f d) h rfl⟩

/-! ### The text of an error code -/

/-- Settles O31: a code with a text of its own is one of the table's, by its number. -/
theorem errorCodeDescriptions : Obligations.ErrorCodeDescriptions := by
  refine ⟨by simp [describe], fun code hcode => ?_⟩
  have hlisted : code.toNat ∉ [0x01, 0x02, 0x03, 0x0F, 0x10, 0x11, 0x12, 0x13, 0x14] := by
    simpa [BitVec.toNat_eq] using hcode
  unfold describe
  split
  case h_10 => rfl
  all_goals
    next hnum => simp [hnum] at hlisted

end Sys2Proof.Machine
end

section
/-! SUPPORT. Requests, refusals and the failed bus transfer as conditions of the whole block (spec 60_exceptions R251,
R253, R256, R259, R262): what request bytes do on a busy, a halted and a ready block, which outcome an operation that
ran can leave, and that neither fault is reached. -/

namespace Sys2Proof.Machine

/-! ### Inputs in a step -/

theorem step_idle {s : State} (h : s.inputs = []) : step s = advance s := by simp [step, takeInput, h]

theorem step_tick {s : State} {rest : List HostInput} (h : s.inputs = .tick :: rest) :
    step s = advance { s with inputs := rest } := by simp [step, takeInput, h]

theorem step_reset {s : State} {rest : List HostInput} (h : s.inputs = .reset :: rest) :
    step s = .next (State.blockReset { s with inputs := rest }) := by simp [step, takeInput, h]

/-- A request in a step, waited for or not. -/
theorem step_request {s : State} {bytes : List Byte} {rest : List HostInput}
    (h : s.inputs = .call bytes :: rest ∨ s.inputs = .present bytes :: rest) :
    ∃ wait, step s = request wait bytes { s with inputs := rest } :=
  h.elim (fun h => ⟨true, step_call h⟩) (fun h => ⟨false, step_present h⟩)

theorem request_busy {wait : Bool} {bytes : List Byte} {s : State} (hb : s.busy = true) :
    request wait bytes s = .next s := if_pos hb

theorem request_decoded {wait : Bool} {bytes extra : List Byte} {s : State} {i : Instr} (hb : s.busy = false)
    (hd : decodeRequest s.cfg bytes = .ok (i, extra)) :
    request wait bytes s = if wait then exec i s else accept i s := by
  simp [request, hb, hd]

theorem request_badSelector {wait : Bool} {bytes : List Byte} {s : State} {b : Byte} (hb : s.busy = false)
    (hd : decodeRequest s.cfg bytes = .error (.badSelector b)) : request wait bytes s = .next (rejectSelector b s) := by
  simp [request, hb, hd]

/-- Settles O13, one case for each way to present the request. -/
theorem stepRunsTheDecodedRequest : Obligations.StepRunsTheDecodedRequest := by
  intro s bytes rest i extra hb hd
  have hq : ∀ wait, request wait bytes { s with inputs := rest } =
      if wait then exec i { s with inputs := rest } else accept i { s with inputs := rest } :=
    fun _ => request_decoded hb hd
  exact ⟨fun hin => (step_call hin).trans (hq true), fun hin => (step_present hin).trans (hq false)⟩

/-! ### A busy block -/

theorem exec_busy {i : Instr} {s : State} (hb : s.busy = true) : exec i s = .next s := by
  rw [exec_eq, perform_busy hb]

theorem accept_busy {i : Instr} {s : State} (hb : s.busy = true) : accept i s = .next s := by
  rw [accept_eq, beginRequest, if_pos hb]

/-- Settles O8: the request is dropped before it is decoded. -/
theorem busyPortTakesNothing : Obligations.BusyPortTakesNothing := by
  refine fun s hb => ⟨fun i => ⟨exec_busy hb, accept_busy hb⟩, fun bytes rest hin => ?_⟩
  obtain ⟨wait, hstep⟩ := step_request hin
  rw [hstep, request_busy (s := { s with inputs := rest }) hb]

/-! ### A halted block -/

theorem exec_halted {i : Instr} {s : State} (hb : s.busy = false) (hh : s.halt = true) :
    exec i s = .next ((s.accept i).refuse .halted) := by
  rw [exec_eq, perform_halted hb hh]

/-- Settles O10: `HALTED` is the first check of an operation (R259), and of an unlisted selector. -/
theorem haltedBlockRefusesEverything : Obligations.HaltedBlockRefusesEverything := by
  refine fun s hb hh => ⟨fun i => ⟨exec_halted hb hh, (accept_halted hb hh).trans (exec_halted hb hh).symm⟩,
    fun b ops rest hsel hin => ?_⟩
  rw [step_unlisted hb hsel hin, hh]
  rfl

/-! ### Refusals -/

theorem accept_of_refused {i : Instr} {s : State} {r : Reason} (h : s.Ready) (hr : refusalOf s i = some r) :
    accept i s = .next (s.afterRefusal i r) := by
  rw [accept_refuse h ((planOf_refuse_iff i s r).mpr hr), accept_refuse_eq]
  rintro rfl
  exact refusalOf_ne_halted hr

theorem classify_outcome_ne_refused (c : Config) (flags : Byte) (data : List Byte) :
    (Classify c flags data).outcome ≠ .refused := by
  by_cases hs : flags = c.bytes.noAnswerFlags
  · rw [hs, classify_noAnswerFlags]
    decide
  · by_cases h0 : flags = 0
    · subst h0
      rw [classify_zero data (Ne.symm hs)]
      decide
    · rw [classify_of_error data hs h0]
      nofun

/-- The final writes say `REFUSED` only where an exchange returned it. -/
theorem State.results_outcome_ne_refused (s : State) {f : Finish}
    (hf : ∀ e, f = .exchange e ∨ f = .framed e → e.outcome ≠ .refused) : (s.results f).outcome ≠ .refused := by
  cases f with
  | exchange e => exact hf e (.inl rfl)
  | framed e =>
    by_cases he : e.outcome = .ok
    · rw [results, if_pos he]
      exact classify_outcome_ne_refused _ _ _
    · rw [results, if_neg he]
      exact hf e (.inr rfl)
  | classified a d => exact classify_outcome_ne_refused _ _ _
  | ok | value v | data d | setFlags v | flagsOut => nofun

/-- No exchange returns `REFUSED`: bytes were received, or it was cut short (R180). -/
theorem exchange_outcome_ne_refused {c : Config} {e : Exchange} (h : (∃ r, e = received c r) ∨
    e = noExchange c .statePreconditionFailed ∨ e = noExchange c .rxLengthFault) : e.outcome ≠ .refused := by
  obtain ⟨r, rfl⟩ | rfl | rfl := h
  · rw [received_outcome]
    decide
  · nofun
  · nofun

/-- No operation's final writes say `REFUSED` (R28). -/
theorem endsOf_outcome_ne_refused {c : Config} {i : Instr} {f : Finish} (h : endsOf c i f) (s : State) :
    (s.results f).outcome ≠ .refused := by
  refine s.results_outcome_ne_refused fun e he => ?_
  cases i
  case transceive | readSingleBlock | writeSingleBlock | select | resetToReady | lockAfi | lockDsfid | writeAfi
    | writeDsfid | getSystemInformation | getMultipleBlockSecurityStatus | custom =>
    obtain ⟨e', rfl, hx⟩ := h
    obtain rfl : e' = e := by simpa using he
    exact exchange_outcome_ne_refused hx
  case readRegister | readEeprom | readData | selfTest | getDieId | getProductVersion | getFirmwareVersion
    | getEepromVersion =>
    obtain ⟨d, rfl⟩ := h
    simp at he
  case inventory | writeMultipleBlocks | customWriteSingle => exact h.elim
  all_goals obtain rfl := h; simp at he

/-- What an operation can do on a ready block, said once: its own refusal; a run to its end; a run to a failed
transfer. -/
theorem exec_cases_ready {i : Instr} {s t : State} (hr : s.Ready) (h : exec i s = .next t) :
    (∃ r, planOf i s = .refuse r ∧ t = (s.accept i).refuse r) ∨
    (∃ w f q es b fin, planOf i s = .go w f q ∧ q.resume es = some (.done fin) ∧
      t = ((s.started i w f).after es b).finish fin) ∨
    (∃ w f q es sent k b, planOf i s = .go w f q ∧ q.resume es = some (.xfer sent k) ∧
      FailsAfter s es sent b ∧ t = s.afterFailure i w es b) := by
  obtain ⟨hb, -⟩ | ⟨-, hh, -⟩ | ⟨-, r, hp, he⟩ | ⟨-, w, f, q, es, b, fin, hp, hq, -, he⟩ |
    ⟨-, w, f, q, es, b, sent, k, hp, hq, hf, he⟩ := exec_cases i s
  · exact absurd (hr.1.symm.trans hb) (by decide)
  · exact absurd (hr.2.symm.trans hh) (by decide)
  all_goals obtain rfl := Host.Outcome.next.inj (he.symm.trans h)
  · exact .inl ⟨r, hp, rfl⟩
  · exact .inr (.inl ⟨w, f, q, es, b, fin, hp, hq, rfl⟩)
  · exact .inr (.inr ⟨w, f, q, es, sent, k, b, hp, hq, hf, rfl⟩)

/-- An operation that is not refused keeps `RES_REASON` and does not end `REFUSED` (R256). -/
theorem exec_not_refused {i : Instr} {s t : State} (hr : s.Ready) (href : refusalOf s i = none)
    (h : exec i s = .next t) : t.resReason = s.resReason ∧ t.outcome ≠ .refused := by
  obtain ⟨r, hp, -⟩ | ⟨w, f, q, es, b, fin, hp, hq, rfl⟩ | ⟨w, f, q, es, sent, k, b, -, -, -, rfl⟩ :=
    exec_cases_ready hr h
  · exact absurd (href.symm.trans ((planOf_refuse_iff i s r).mp hp)) (by simp)
  · exact ⟨State.results_resReason _ fin, endsOf_outcome_ne_refused (Sequence.ends_of_resume (planOf_ends hp) hq) _⟩
  · exact ⟨rfl, nofun⟩

/-- Settles O12: by the operation's own checks on a ready block; the halted block and the unlisted selector are
refused before any of them. -/
theorem refusalReasons : Obligations.RefusalReasons := by
  refine ⟨fun s i h => ⟨fun r hr => ⟨exec_of_refused h hr, accept_of_refused h hr⟩,
    fun href t => exec_not_refused h href⟩, fun s i hb hh => ?_, fun s b ops rest h hsel hin => ?_, rfl, rfl⟩
  · exact ⟨_, exec_halted hb hh, rfl, rfl, rfl⟩
  · refine ⟨_, step_unlisted h.1 hsel (.inl hin), ?_⟩
    simp [h.2]

/-! ### A failed transfer -/

/-- An operation can only leave a block halted that it found ready if a transfer of its own failed (R253). -/
theorem exec_halts {i : Instr} {s t : State} (hr : s.Ready) (h : exec i s = .next t) (hh : t.halt = true) :
    ∃ w f q es sent k bus, planOf i s = .go w f q ∧ q.resume es = some (.xfer sent k) ∧
      FailsAfter s es sent bus ∧ t = s.afterFailure i w es bus := by
  obtain ⟨r, -, rfl⟩ | ⟨w, f, q, es, b, fin, -, -, rfl⟩ | hfailed := exec_cases_ready hr h
  · exact absurd (hr.2.symm.trans hh) (by decide)
  · rw [State.finish_halt, State.results_halt] at hh
    exact absurd (hr.2.symm.trans hh) (by decide)
  · exact hfailed

/-- Settles O35: the run to the failed transfer, that nothing else halts the block, and the refusals of a halted
block. -/
theorem busFailureHalts : Obligations.BusFailureHalts := by
  refine ⟨fun i s w f q es sent k bus h hp hq hf => exec_of_fails h hp hq hf, fun i s t h ht hh => ?_⟩
  obtain ⟨w, f, q, es, sent, k, bus, hp, hq, hf, rfl⟩ := exec_halts h ht hh
  exact ⟨⟨w, f, q, es, sent, k, bus, hp, hq, hf, rfl⟩, fun j => ⟨_, exec_halted rfl rfl, rfl, rfl, rfl, rfl, rfl⟩⟩

/-! ### The machine goes on -/

/-- With the invariant, a busy block has a next event: the sequencer is coherent. -/
theorem State.Inv.advances {s : State} (h : s.Inv) : ∃ t, advance s = .next t := by
  cases hb : s.busy with
  | false => exact ⟨s, advance_ready hb⟩
  | true =>
    obtain ⟨q, hc, -⟩ := h.coherent hb
    exact ⟨q.once s, by rw [advance, if_pos hb, hc]⟩

/-- Bytes that the port can carry are a request or an unlisted selector; a busy block does not look at them. -/
theorem request_goes_on {wait : Bool} {bytes : List Byte} {s : State}
    (hd : (∃ i extra, decodeRequest s.cfg bytes = .ok (i, extra)) ∨
      ∃ b, decodeRequest s.cfg bytes = .error (.badSelector b)) : ∃ t, request wait bytes s = .next t := by
  cases hb : s.busy with
  | true => exact ⟨s, request_busy hb⟩
  | false =>
    obtain ⟨i, extra, hd⟩ | ⟨b, hd⟩ := hd
    · rw [request_decoded hb hd]
      cases wait with
      | true => exact ⟨_, exec_eq i s⟩
      | false => exact ⟨_, accept_eq i s⟩
    · exact ⟨_, request_badSelector hb hd⟩

/-- Settles O46, by the input at the head of the queue. -/
theorem machineGoesOn : Obligations.MachineGoesOn := by
  intro s hi hp
  have carried : ∀ {bytes rest}, (s.inputs = .call bytes :: rest ∨ s.inputs = .present bytes :: rest) →
      ∃ t, step s = .next t := fun {bytes rest} hin => by
    obtain ⟨wait, hstep⟩ := step_request hin
    rw [hstep]
    exact request_goes_on (s := { s with inputs := rest }) (hp bytes rest hin)
  match hin : s.inputs with
  | [] => exact step_idle hin ▸ hi.advances
  | .tick :: rest => exact step_tick hin ▸ (hi.inputs rest).advances
  | .reset :: rest => exact ⟨_, step_reset hin⟩
  | .call bytes :: rest => exact carried (.inl hin)
  | .present bytes :: rest => exact carried (.inr hin)

end Sys2Proof.Machine
end

section
/-! SUPPORT. Reset and timing (spec 70_reset_and_hazards R280, R292): the reset input in a step, and how long the delays
of an operation take, whatever the replies. -/

namespace Sys2Proof.Machine

/-! ### The reset input -/

/-- A ready block with no input waits (R280). -/
theorem step_waits {s : State} (hb : s.busy = false) (hin : s.inputs = []) : step s = .next s :=
  (step_idle hin).trans (advance_ready hb)

/-- Settles O47: the step is the block's reset; that no other step leaves the halted state is O36. -/
theorem resetInput : Obligations.ResetInput := by
  refine ⟨fun s rest hin => ?_, fun s t hb hh h ht => ?_⟩
  · exact ⟨_, step_reset hin, rfl, rfl, rfl, rfl, rfl, rfl, rfl, rfl, rfl, rfl, rfl, rfl, rfl,
      fun hrest => step_waits rfl hrest⟩
  · by_contra hno
    obtain ⟨hstays, -⟩ := haltEndsByResetOnly s t hb hh h fun rest hin => hno ⟨rest, hin⟩
    exact absurd (hstays.symm.trans ht) (by decide)

/-! ### The delays of a sequence -/

/-- With `n` milliseconds of delays before the sequence, every end of it, whatever the replies, satisfies `P` of the
milliseconds up to that end and of its final writes. -/
def Sequence.Takes (P : Nat → Finish → Prop) : Nat → Sequence → Prop
  | n, .done f => P n f
  | n, .delay ms k => k.Takes P (n + ms)
  | n, .xfer _ k => ∀ r, (k r).Takes P n

theorem Sequence.takes_resume {P : Nat → Finish → Prop} {n : Nat} {q : Sequence} {es : List Event} {f : Finish}
    (h : q.Takes P n) (hq : q.resume es = some (.done f)) : P (n + totalDelay es) f := by
  induction es generalizing q n with
  | nil =>
    obtain rfl := Option.some.inj ((resume_nil q).symm.trans hq)
    exact h
  | cons e es ih =>
    obtain ⟨ms, k, rfl, rfl, hk⟩ | ⟨sent, k, reply, rfl, rfl, hk⟩ := resume_cons hq
    · rw [totalDelay, ← Nat.add_assoc]
      exact ih (q := k) h hk
    · exact ih (h reply) hk

section Commands
variable {P : Nat → Finish → Prop} {c : Config} {n : Nat}

theorem Sequence.takes_done {f : Finish} (h : P n f) : (Sequence.done f).Takes P n := h

theorem Sequence.takes_delay {ms : Nat} {k : Sequence} (h : k.Takes P (n + ms)) : (Sequence.delay ms k).Takes P n := h

/-- A command takes `T_CMD`, with a reply or without (R72). -/
theorem Sequence.takes_command {cmd : BusCommand} {len : Nat} {k : List Byte → Sequence}
    (h : ∀ r, (k r).Takes P (n + c.time.tCmd)) : (chipCommand c cmd len k).Takes P n := by
  intro _
  show Sequence.Takes P _ (if 0 < len then _ else _)
  split
  · exact h
  · exact h []

/-- The two phases of the chip's reset take a command and `T_RESET` each (R174). -/
theorem Sequence.takes_chipReset {k : Sequence}
    (h : k.Takes P (n + c.time.tCmd + c.time.tReset + c.time.tCmd + c.time.tReset)) : (chipReset c k).Takes P n :=
  takes_command fun _ => takes_delay (takes_command fun _ => takes_delay h)

end Commands

/-! ### The table of R292 -/

/-- The `Delay` events of an operation that exchanges no frame with the tag and is not refused (R292). -/
def plainDelay (t : Timing) : Instr → Nat
  | .selfTest => 4 * t.tCmd
  | .setCommandTransceive => 2 * t.tCmd
  | .softwareReset => 2 * t.tCmd + 2 * t.tReset
  | .configureIso15693 => 5 * t.tCmd + 2 * t.tReset
  | .setFlags _ | .getFlags | .classify _ _ => 0
  | _ => t.tCmd

/-- The `Delay` events of an exchange with the tag, on the path its outcome tells of (R292). -/
def exchangeDelay (t : Timing) : OpOutcome → Nat
  | .statePreconditionFailed => 4 * t.tCmd
  | .rxLengthFault => 6 * t.tCmd + t.tSettle
  | _ => 7 * t.tCmd + t.tSettle

theorem exchangeDelay_normal (t : Timing) {o : OpOutcome} (hp : o ≠ .statePreconditionFailed)
    (hl : o ≠ .rxLengthFault) : exchangeDelay t o = 7 * t.tCmd + t.tSettle := by
  unfold exchangeDelay
  split
  · exact absurd rfl hp
  · exact absurd rfl hl
  · rfl

/-! ### Operations without an exchange -/

theorem Plan.body_of_plain {b q : Sequence} {w : Bool} {f : List Byte} (h : Plan.plain b = .go w f q) : q = b :=
  (Plan.go.inj h).2.2.symm

/-- A plan that is not refused has passed its check. -/
theorem Plan.go_of_check {p : Prop} [Decidable p] {r : Reason} {plan : Plan} {q : Sequence} {w : Bool} {f : List Byte}
    (h : (if p then .refuse r else plan) = .go w f q) : plan = .go w f q := by
  split at h
  · cases h
  · exact h

theorem Plan.body_of_known {c : Config} {a : Byte} {b q : Sequence} {w : Bool} {f : List Byte}
    (h : (if c.chip.known a then Plan.plain b else .refuse .unknownRegister) = .go w f q) : q = b := by
  split at h
  · exact body_of_plain h
  · cases h

/-- A `SELECT` that sends no frame has no identifier, and is refused (R205). -/
theorem planSelect_of_no_frame {s : State} {uid : Uid} (h : rfFrameOf s (.select uid) = none) :
    planSelect uid s = .refuse .missingUid := by
  have hu : mandatoryUid uid = none := by simpa [rfFrameOf, rfRequestOf] using h
  rw [planSelect, hu]

/-- Whatever the replies, an operation without an exchange takes the delays of its row (R292). -/
theorem planOf_takes {i : Instr} {s : State} {w : Bool} {f : List Byte} {q : Sequence}
    (hi : rfFrameOf s i = none) (hp : planOf i s = .go w f q) :
    q.Takes (fun n _ => n = plainDelay s.cfg.time i) 0 := by
  cases i
  case readSingleBlock | writeSingleBlock | resetToReady | lockAfi | lockDsfid | writeAfi | writeDsfid
    | getSystemInformation | getMultipleBlockSecurityStatus | custom | transceive => cases hi
  case select => cases (planSelect_of_no_frame hi).symm.trans hp
  case inventory | writeMultipleBlocks | customWriteSingle => cases hp
  case setFlags | getFlags | classify =>
    obtain rfl := Plan.body_of_plain hp
    exact Sequence.takes_done rfl
  case writeRegister | writeRegisterOrMask | writeRegisterAndMask | readRegister =>
    obtain rfl := Plan.body_of_known hp
    exact Sequence.takes_command fun _ => Nat.zero_add _
  case sendData =>
    obtain rfl := Plan.body_of_plain (Plan.go_of_check (Plan.go_of_check hp))
    exact Sequence.takes_command fun _ => Nat.zero_add _
  case readData =>
    obtain rfl := Plan.body_of_plain (Plan.go_of_check hp)
    exact Sequence.takes_command fun _ => Nat.zero_add _
  case readEeprom | loadRfConfig | rfOn | rfOff | getDieId | getProductVersion | getFirmwareVersion
    | getEepromVersion | setCommandIdle =>
    obtain rfl := Plan.body_of_plain hp
    exact Sequence.takes_command fun _ => Nat.zero_add _
  case selfTest =>
    obtain rfl := Plan.body_of_plain hp
    refine Sequence.takes_command fun _ => Sequence.takes_command fun _ => Sequence.takes_command fun _ =>
      Sequence.takes_command fun _ => Sequence.takes_done ?_
    simp only [plainDelay]
    omega
  case setCommandTransceive =>
    obtain rfl := Plan.body_of_plain hp
    refine Sequence.takes_command fun _ => Sequence.takes_command fun _ => Sequence.takes_done ?_
    simp only [plainDelay]
    omega
  case softwareReset =>
    obtain rfl := Plan.body_of_plain hp
    refine Sequence.takes_chipReset (Sequence.takes_done ?_)
    simp only [plainDelay]
    omega
  case configureIso15693 =>
    obtain rfl := Plan.body_of_plain hp
    refine Sequence.takes_chipReset (Sequence.takes_command fun _ => Sequence.takes_command fun _ =>
      Sequence.takes_command fun _ => Sequence.takes_done ?_)
    simp only [plainDelay]
    omega

/-! ### Exchanges with the tag -/

/-- Whatever comes back, the transceive sequence takes the delays of the path whose outcome it returns (R180, R292). -/
theorem transceiveSequence_takes (c : Config) (frame : List Byte) (fin : Exchange → Finish) :
    (transceiveSequence c frame fin).Takes (fun n f => ∃ e, f = fin e ∧ n = exchangeDelay c.time e.outcome) 0 := by
  unfold transceiveSequence commandTransceive commandIdle readRegister
  refine Sequence.takes_command fun _ => Sequence.takes_command fun _ => Sequence.takes_command fun rf => ?_
  dsimp only
  split
  · refine Sequence.takes_command fun _ => Sequence.takes_done ⟨_, rfl, ?_⟩
    simp only [noExchange, exchangeDelay]
    omega
  · refine Sequence.takes_command fun _ => Sequence.takes_delay (Sequence.takes_command fun rx => ?_)
    split
    · refine Sequence.takes_command fun _ => Sequence.takes_done ⟨_, rfl, ?_⟩
      simp only [noExchange, exchangeDelay]
      omega
    · refine Sequence.takes_command fun r => Sequence.takes_command fun _ => Sequence.takes_done ⟨_, rfl, ?_⟩
      simp only [received_outcome, exchangeDelay]
      omega

/-- The final writes of an exchange, raw or framed, keep the path its outcome tells of (R202). -/
theorem exchangeDelay_results (t : Timing) (s : State) (e : Exchange) {fin : Exchange → Finish}
    (hfin : fin = .exchange ∨ fin = .framed) :
    exchangeDelay t (s.results (fin e)).outcome = exchangeDelay t e.outcome := by
  obtain rfl | rfl := hfin
  · rfl
  · by_cases he : e.outcome = .ok
    · obtain ⟨hp, hl⟩ := classify_outcome_ne s.cfg e.flags e.data
      rw [State.results, if_pos he, State.writeClassified_outcome, exchangeDelay_normal t hp hl, he]
      rfl
    · rw [State.results, if_neg he]

/-! ### Operations that ran to their end -/

section Operations
variable {i : Instr} {s t : State} (hr : s.Ready) (ht : exec i s = .next t) (hh : t.halt = false)
include hr ht hh

/-- An operation whose sequence takes `P` has, at its end, new events and final writes that satisfy `P`. -/
theorem exec_takes {w : Bool} {f : List Byte} {q : Sequence} {P : Nat → Finish → Prop} (hp : planOf i s = .go w f q)
    (hq : q.Takes P 0) :
    ∃ u fin, P (totalDelay (newEvents s t)) fin ∧ t.outcome = (State.results u fin).outcome := by
  obtain ⟨es, b, fin, hend, rfl⟩ := exec_done_of_not_halted hr hp ht hh
  refine ⟨_, fin, ?_, rfl⟩
  rw [newEvents_finish, ← Nat.zero_add (totalDelay es)]
  exact Sequence.takes_resume hq hend

theorem totalDelay_plain (hi : rfFrameOf s i = none) (href : refusalOf s i = none) :
    totalDelay (newEvents s t) = plainDelay s.cfg.time i := by
  obtain ⟨w, f, q, hp⟩ := planOf_go_of_none href
  obtain ⟨-, -, htotal, -⟩ := exec_takes hr ht hh hp (planOf_takes hi hp)
  exact htotal

theorem totalDelay_exchange {frame : List Byte} (hi : rfFrameOf s i = some frame) (href : refusalOf s i = none) :
    totalDelay (newEvents s t) = exchangeDelay s.cfg.time t.outcome := by
  have ran : ∀ {w f fin}, fin = Finish.exchange ∨ fin = .framed →
      planOf i s = .go w f (transceiveSequence s.cfg frame fin) →
      totalDelay (newEvents s t) = exchangeDelay s.cfg.time t.outcome := fun hfin hp => by
    obtain ⟨u, -, ⟨e, rfl, htotal⟩, hout⟩ := exec_takes hr ht hh hp (transceiveSequence_takes _ _ _)
    rw [htotal, hout, exchangeDelay_results _ u e hfin]
  obtain ⟨-, w, f, hp⟩ | ⟨-, w, f, hp⟩ := planOf_of_rfFrameOf hi href
  · exact ran (.inl rfl) hp
  · exact ran (.inr rfl) hp

end Operations

theorem newEvents_of_refused {i : Instr} {s t : State} (hr : s.Ready) (href : refusalOf s i ≠ none)
    (h : exec i s = .next t) : newEvents s t = [] := by
  obtain ⟨r, hreason⟩ := Option.ne_none_iff_exists'.mp href
  obtain rfl := Host.Outcome.next.inj ((exec_of_refused hr hreason).symm.trans h)
  exact newEvents_of_same rfl

/-- Settles O41: the totals by path and by row, in the default durations. -/
theorem minimumDelays : Obligations.MinimumDelays := by
  intro i s t hcfg hr ht hh
  refine ⟨fun href => ?_, fun href => ⟨fun frame hi => ?_, fun hi => ?_⟩⟩
  · rw [newEvents_of_refused hr href ht]
    rfl
  · rw [totalDelay_exchange hr ht hh hi href, hcfg]
    exact ⟨fun ho => ho ▸ rfl, fun ho => ho ▸ rfl, exchangeDelay_normal _⟩
  · rw [totalDelay_plain hr ht hh hi href, hcfg]
    cases i <;> rfl

end Sys2Proof.Machine
end
